-- ==== Sys2Proof/Word.lean ====
section
/-! DEFINITION. The bus word and the register offset of the engine's one address space (00_scope.md R13, R17; 20_memory.md R70). -/

namespace Sys2Proof

/-- A 32-bit host bus word; bit 0 is its least significant bit (R17). -/
abbrev Word := BitVec 32

/-- A byte offset in the 256-byte register space, 0x00 to 0xFF (R13, R70). -/
abbrev Offset := BitVec 8

end Sys2Proof
end

