-- ==== Sys2Proof/Config.lean ====
section
/-! DEFINITION. What the spec leaves to the platform or leaves open: parameters and free values, each a constant without a body, so that no proof can see its value. -/

namespace Sys2Proof.Config

/-- ENGINE_BASE, where the platform places the register space: an open parameter (20_memory.md R70, 92_eei_decisions.md D34).
Log 6. -/
opaque engineBase : Nat

/-- The case of the hexadecimal digits in the host driver's result string (70_reset_and_hazards.md R352). -/
inductive HexCase where
  | upper
  | lower
deriving DecidableEq, Repr, Inhabited

/-- `hexCase`, a parameter of the host driver that the spec leaves open (93_implementation_defined.md, part 2). Log 8. -/
opaque hexCase : HexCase

/-- FREE VALUE: what L and R hold once a run has completed (10_state.md R51, 92_eei_decisions.md D30, 93_implementation_defined.md
part 2: `any value`). It is drawn with a counter of State and may depend on the two half-blocks the last engine step wrote,
so that the reading of 43_des.md R214's comment, that L and R keep those, is one of its possible values. Log 4. -/
opaque halvesAfterRun : Nat → BitVec 32 → BitVec 32 → BitVec 32 × BitVec 32

end Sys2Proof.Config
end

