-- ==== Sys2Proof/Syntax.lean ====
section
/-! DEFINITION. The engine's commands: one constructor per row of spec/opcode_table.json (30_encoding.md R102). -/

namespace Sys2Proof

/-- A command (30_encoding.md R102, R106), with the operand fields its encoding leaves free: `inst` is the 2-bit field
INST (R103), `len` the 5-bit field LEN (R104). Every value of a field is a command of its own: which values the engine
accepts is checked when the command is submitted (60_exceptions.md R303), not here. -/
inductive Instr where
  /-- NOP (45_control.md R260) -/
  | nop
  /-- DES_SETKEY (41_key_schedule.md R176) -/
  | desSetkey (inst : BitVec 2) (len : BitVec 5)
  /-- TDEA_SETKEY (41_key_schedule.md R177) -/
  | tdeaSetkey (len : BitVec 5)
  /-- DES_ENC (43_des.md R215) -/
  | desEnc (inst : BitVec 2) (len : BitVec 5)
  /-- DES_DEC (43_des.md R216) -/
  | desDec (inst : BitVec 2) (len : BitVec 5)
  /-- TDEA_ENC (44_tdea.md R242) -/
  | tdeaEnc (len : BitVec 5)
  /-- TDEA_DEC (44_tdea.md R243) -/
  | tdeaDec (len : BitVec 5)
  /-- CLEAR (45_control.md R261) -/
  | clear
deriving DecidableEq, Repr

end Sys2Proof
end

