-- ==== Sys2Proof/Decode.lean ====
section
/-! DEFINITION. The decoder of command words, total on every 32-bit word (30_encoding.md R101, R102, R105, R106), the encoder (R107), the error codes of 60_exceptions.md R301, and the decoder as spec/opcode_table.json numbers its bits. -/

namespace Sys2Proof

/-- The error codes an engine records in STATUS.ERRCODE (60_exceptions.md R301). Code 0, NONE, is no error; codes 8..15 are
reserved and never produced. -/
inductive ErrCode where
  | badCmd
  | busy
  | badInst
  | keyLen
  | blockLen
  | noKey
  | badAccess
deriving DecidableEq, Repr

/-- The 4-bit code of 60_exceptions.md R301. -/
def ErrCode.toBits : ErrCode → BitVec 4
  | .badCmd => 1
  | .busy => 2
  | .badInst => 3
  | .keyLen => 4
  | .blockLen => 5
  | .noKey => 6
  | .badAccess => 7

/-- What decoding answers (30_encoding.md R106): a command, or `Bad` with an error code, which is always BADCMD. -/
inductive Decoded where
  | ok (i : Instr)
  | bad (code : ErrCode)
deriving DecidableEq, Repr

/-- OP, bits 3:0 (30_encoding.md R101). -/
def fieldOp (w : Word) : BitVec 4 := w.extractLsb' 0 4

/-- INST, bits 5:4 (30_encoding.md R101). -/
def fieldInst (w : Word) : BitVec 2 := w.extractLsb' 4 2

/-- RSV0, bits 7:6, reserved (30_encoding.md R101). -/
def fieldRsv0 (w : Word) : BitVec 2 := w.extractLsb' 6 2

/-- LEN, bits 12:8 (30_encoding.md R101). -/
def fieldLen (w : Word) : BitVec 5 := w.extractLsb' 8 5

/-- RSV1, bits 31:13, reserved (30_encoding.md R101). -/
def fieldRsv1 (w : Word) : BitVec 19 := w.extractLsb' 13 19

/-- The case over OP of 30_encoding.md R106, once both reserved fields are known to be 0. -/
def decodeFields (op : BitVec 4) (inst : BitVec 2) (len : BitVec 5) : Decoded :=
  if op = 0x0#4 then
    if inst ≠ 0 ∨ len ≠ 0 then .bad .badCmd else .ok .nop
  else if op = 0x1#4 then .ok (.desSetkey inst len)
  else if op = 0x2#4 then
    if inst ≠ 0 then .bad .badCmd else .ok (.tdeaSetkey len)
  else if op = 0x3#4 then .ok (.desEnc inst len)
  else if op = 0x4#4 then .ok (.desDec inst len)
  else if op = 0x5#4 then
    if inst ≠ 0 then .bad .badCmd else .ok (.tdeaEnc len)
  else if op = 0x6#4 then
    if inst ≠ 0 then .bad .badCmd else .ok (.tdeaDec len)
  else if op = 0x7#4 then
    if inst ≠ 0 ∨ len ≠ 0 then .bad .badCmd else .ok .clear
  else .bad .badCmd

/-- The decode function of 30_encoding.md R106. -/
def decode (w : Word) : Decoded :=
  if fieldRsv1 w ≠ 0 ∨ fieldRsv0 w ≠ 0 then .bad .badCmd
  else decodeFields (fieldOp w) (fieldInst w) (fieldLen w)

/-- Field OP of a command: the opcode map of 30_encoding.md R102. -/
def Instr.op : Instr → BitVec 4
  | .nop => 0x0
  | .desSetkey _ _ => 0x1
  | .tdeaSetkey _ => 0x2
  | .desEnc _ _ => 0x3
  | .desDec _ _ => 0x4
  | .tdeaEnc _ => 0x5
  | .tdeaDec _ => 0x6
  | .clear => 0x7

/-- Field INST of a command: 0 where the command has no INST operand (30_encoding.md R102, R103). -/
def Instr.instField : Instr → BitVec 2
  | .nop => 0
  | .desSetkey inst _ => inst
  | .tdeaSetkey _ => 0
  | .desEnc inst _ => inst
  | .desDec inst _ => inst
  | .tdeaEnc _ => 0
  | .tdeaDec _ => 0
  | .clear => 0

/-- Field LEN of a command: 0 where the command has no LEN operand (30_encoding.md R102, R104). -/
def Instr.lenField : Instr → BitVec 5
  | .nop => 0
  | .desSetkey _ len => len
  | .tdeaSetkey len => len
  | .desEnc _ len => len
  | .desDec _ len => len
  | .tdeaEnc len => len
  | .tdeaDec len => len
  | .clear => 0

/-- `enc(OP, INST, LEN) = OP | INST << 4 | LEN << 8` (30_encoding.md R107). -/
def encodeFields (op : BitVec 4) (inst : BitVec 2) (len : BitVec 5) : Word :=
  op.setWidth 32 ||| inst.setWidth 32 <<< 4 ||| len.setWidth 32 <<< 8

/-- The command word of a command (30_encoding.md R107). -/
def encode (i : Instr) : Word := encodeFields i.op i.instField i.lenField

/-- The command a decoding answers, if it answers one. -/
def Decoded.instr? : Decoded → Option Instr
  | .ok i => some i
  | .bad _ => none

/-- The command word whose bits spec/opcode_table.json numbers as `w`, of which `nbits` are given and the others are 0.
A command is one bus word, moved whole (20_memory.md R72, R78), so bit 0 of the table is bit 0 of the word. -/
def tableWord (nbits w : Nat) : Word := BitVec.ofNat 32 (w % 2 ^ nbits)

/-- The command this decoder reads from the word whose bits are `w`, numbered as spec/opcode_table.json numbers them. -/
def decodeTableWord (nbits w : Nat) : Option Instr := (decode (tableWord nbits w)).instr?

end Sys2Proof
end

