-- ==== Sys2Proof/Machine/Bits.lean ====
section
/-! DEFINITION. Cipher bit vectors and their primitives (00_scope.md R15, R16): index 0 is the first and the most significant bit. -/

namespace Sys2Proof.Machine

/-- `v.bit(i)`, counted from the most significant bit (00_scope.md R15). -/
def bit {n : Nat} (v : BitVec n) (i : Nat) : Bool := v.getMsbD i

/-- The `k` bits of `v` from index `a` on: the spec's `v.slice(a, a + k)` (00_scope.md R16). -/
def slice {n : Nat} (v : BitVec n) (a k : Nat) : BitVec k := v.extractLsb' (n - a - k) k

/-- `rotl(v, s)`: left rotation modulo the width, so that bit s becomes bit 0 (00_scope.md R16). -/
def rotl {n : Nat} (v : BitVec n) (s : Nat) : BitVec n := v.rotateLeft s

/-- The number whose bits, the most significant first, are the list's. -/
def natOfBits (bs : List Bool) : Nat := bs.foldl (fun acc b => 2 * acc + b.toNat) 0

/-- `permute(T, v)`, for a table of `m` entries numbered from 1 as published: output bit i is input bit `T[i] - 1`
(00_scope.md R16, 40_tables.md R130, 90_conflicts.md C5). -/
def permute {n : Nat} (m : Nat) (table : List Nat) (v : BitVec n) : BitVec m :=
  BitVec.ofNat m (natOfBits (table.map fun t => bit v (t - 1)))

end Sys2Proof.Machine
end

