-- ==== Sys2Proof/Machine/KeySchedule.lean ====
section
/-! DEFINITION. The key schedule generator (41_key_schedule.md R170 to R174). -/

namespace Sys2Proof.Machine

/-- `CD0 = permute(PC1, K)`: what binding the key K stores (41_key_schedule.md R171). -/
def pc1 (key : BitVec 64) : BitVec 56 := permute 56 pc1Table key

/-- `C0`, indices 0..27 of CD0 (41_key_schedule.md R172). -/
def halfC (cd0 : BitVec 56) : BitVec 28 := slice cd0 0 28

/-- `D0`, indices 28..55 of CD0 (41_key_schedule.md R172). -/
def halfD (cd0 : BitVec 56) : BitVec 28 := slice cd0 28 28

/-- `RoundKey(CD0, r)`: the cumulative rotation of the original C0 and D0, then PC2 (41_key_schedule.md R173, R174). The
round index is 4 bits wide, so it is always 0..15. -/
def roundKey (cd0 : BitVec 56) (r : BitVec 4) : BitVec 48 :=
  permute 48 pc2Table (rotl (halfC cd0) (cum r.toNat) ++ rotl (halfD cd0) (cum r.toNat))

end Sys2Proof.Machine
end

