-- ==== Sys2Proof/Machine/Round.lean ====
section
/-! DEFINITION. The round function F (42_round_function.md R190 to R197; S-box indexing 40_tables.md R138). -/

namespace Sys2Proof.Machine

/-- `row(g)`, the two outer bits of a 6-bit group (40_tables.md R138). -/
def sboxRow (g : BitVec 6) : Nat := 2 * (bit g 0).toNat + (bit g 5).toNat

/-- `col(g)`, the four inner bits of a 6-bit group (40_tables.md R138). -/
def sboxCol (g : BitVec 6) : Nat :=
  8 * (bit g 1).toNat + 4 * (bit g 2).toNat + 2 * (bit g 3).toNat + (bit g 4).toNat

/-- `Sn(g) = fromNat(4, SBOX[n][(row(g) << 4) + col(g)])` (40_tables.md R138, 42_round_function.md R194). -/
def sboxOut (n : Nat) (g : BitVec 6) : BitVec 4 :=
  BitVec.ofNat 4 ((sboxTable n).getD ((sboxRow g <<< 4) + sboxCol g) 0)

/-- `Y`: group n, bits 6n..6n+5 of S, goes to S(n+1), whose value fills indices 4n..4n+3 of Y, most significant bit first
(42_round_function.md R193 to R195, 90_conflicts.md C1). -/
def substitute (s : BitVec 48) : BitVec 32 :=
  (List.range 8).foldl (fun y n => y <<< 4 ||| (sboxOut n (slice s (6 * n) 6)).setWidth 32) 0

/-- `F(R, K)` (42_round_function.md R197). -/
def feistel (r : BitVec 32) (k : BitVec 48) : BitVec 32 :=
  permute 32 pTable (substitute (permute 48 eTable r ^^^ k))

end Sys2Proof.Machine
end

