-- ==== Sys2Proof/Machine/Cipher.lean ====
section
/-! DEFINITION. The DES and TDEA functions (43_des.md R211; 44_tdea.md R240) and the one round and the two block permutations they share with the engine step. -/

namespace Sys2Proof.Machine

/-- The direction of a pass (43_des.md R210). -/
inductive Dir where
  | enc
  | dec
deriving DecidableEq, Repr

/-- The two half-blocks (L, R). -/
abbrev Halves := BitVec 32 × BitVec 32

/-- `B = permute(IP, X)`, L = B.slice(0, 32), R = B.slice(32, 64) (43_des.md R211, R212). -/
def splitBlock (x : BitVec 64) : Halves :=
  (slice (permute 64 ipTable x) 0 32, slice (permute 64 ipTable x) 32 32)

/-- `permute(IPinv, R ++ L)`: the final swap undone, then IPinv (43_des.md R211, R213). -/
def joinHalves (h : Halves) : BitVec 64 := permute 64 ipInvTable (h.2 ++ h.1)

/-- One round: `(L, R) <- (R, xor(L, F(R, K)))` (43_des.md R211, R213). -/
def feistelRound (k : BitVec 48) (h : Halves) : Halves := (h.2, h.1 ^^^ feistel h.2 k)

/-- The rounds of the given round indices, in that order (43_des.md R211). -/
def desRounds (cd0 : BitVec 56) (order : List (BitVec 4)) (h : Halves) : Halves :=
  order.foldl (fun h r => feistelRound (roundKey cd0 r) h) h

/-- The round indices 0, 1, ..., 15. -/
def ascending : List (BitVec 4) := [0, 1, 2, 3, 4, 5, 6, 7, 8, 9, 10, 11, 12, 13, 14, 15]

/-- The round-key order of a direction: 0..15 to encrypt, 15..0 to decrypt (43_des.md R211). -/
def roundOrder : Dir → List (BitVec 4)
  | .enc => ascending
  | .dec => ascending.reverse

/-- `DESrounds(CD0, X, order)` with the order of a direction (43_des.md R211). -/
def des (dir : Dir) (cd0 : BitVec 56) (x : BitVec 64) : BitVec 64 :=
  joinHalves (desRounds cd0 (roundOrder dir) (splitBlock x))

/-- `DESenc(CD0, X)` (43_des.md R211). -/
def desEncrypt (cd0 : BitVec 56) (x : BitVec 64) : BitVec 64 := des .enc cd0 x

/-- `DESdec(CD0, X)` (43_des.md R211). -/
def desDecrypt (cd0 : BitVec 56) (x : BitVec 64) : BitVec 64 := des .dec cd0 x

/-- `TDEAenc(M) = E_3(D_2(E_1(M)))` for the CD0 of instances 1, 2, 3 (44_tdea.md R240). -/
def tdeaEncrypt (cd1 cd2 cd3 : BitVec 56) (m : BitVec 64) : BitVec 64 :=
  desEncrypt cd3 (desDecrypt cd2 (desEncrypt cd1 m))

/-- `TDEAdec(C) = D_1(E_2(D_3(C)))` for the CD0 of instances 1, 2, 3 (44_tdea.md R240). -/
def tdeaDecrypt (cd1 cd2 cd3 : BitVec 56) (c : BitVec 64) : BitVec 64 :=
  desDecrypt cd1 (desEncrypt cd2 (desDecrypt cd3 c))

end Sys2Proof.Machine
end

