-- ==== Sys2Proof/Machine/State.lean ====
section
/-! DEFINITION. The machine's state as plain data (10_state.md R30 to R55), its environment's pending inputs, its faults and refusals, and the state after reset (70_reset_and_hazards.md R340). -/

namespace Sys2Proof.Machine

/-- CTRL (10_state.md R34): the two interrupt enables. Its other bits read 0 and ignore writes, so they hold no state. -/
structure Ctrl where
  /-- IE_DONE, bit 0 -/
  ieDone : Bool
  /-- IE_ERR, bit 1 -/
  ieErr : Bool
deriving DecidableEq, Repr

/-- The error record: STATUS.ERR, STATUS.EOVF, STATUS.ERRCODE and ERRINFO (10_state.md R39, R41, R43). -/
structure ErrorRecord where
  /-- STATUS.ERR: an error has been recorded and not yet cleared -/
  err : Bool
  /-- STATUS.EOVF: an error occurred while ERR was already 1 -/
  eovf : Bool
  /-- STATUS.ERRCODE -/
  code : BitVec 4
  /-- ERRINFO -/
  info : Word
deriving DecidableEq, Repr

/-- The 24-byte key buffer KB, words KB0..KB5 (10_state.md R44). -/
structure KeyBuffer where
  kb0 : Word
  kb1 : Word
  kb2 : Word
  kb3 : Word
  kb4 : Word
  kb5 : Word
deriving DecidableEq, Repr

/-- A 64-bit block carried in two words, HI with bytes 0..3 and LO with bytes 4..7 (10_state.md R46, R47). -/
structure BlockWords where
  hi : Word
  lo : Word
deriving DecidableEq, Repr

/-- RKSEL (10_state.md R48): the selection of the round-key readout. Its other bits read 0 and ignore writes. -/
structure RkSel where
  /-- RIDX, bits 3:0 -/
  ridx : BitVec 4
  /-- SEL, bits 5:4; 0 selects no instance -/
  sel : BitVec 2
deriving DecidableEq, Repr

/-- One DES instance INST[s] (10_state.md R45). -/
structure KeySlot where
  /-- CD0, the PC1 output of the bound key -/
  cd0 : BitVec 56
  /-- KV: a key is bound -/
  kv : Bool
deriving DecidableEq, Repr

/-- The sequencer state (10_state.md R50). -/
structure Sequencer where
  /-- CUROP: OP of the current or last accepted command -/
  curop : BitVec 4
  /-- CURINST: the instance of the current single-DES command, or 0 -/
  curinst : BitVec 2
  /-- PASS: 0 when idle, else the pass in progress -/
  pass : BitVec 2
  /-- RND: rounds completed in the current pass -/
  rnd : BitVec 4
deriving DecidableEq, Repr

/-- The size in bytes of a host access: 1, 2, 4 or 8 (20_memory.md R71). -/
inductive AccessSize where
  | byte
  | half
  | word
  | dword
deriving DecidableEq, Repr

/-- The data of a host access, of `size × 8` bits (20_memory.md R71). -/
inductive BusData where
  | byte (d : BitVec 8)
  | half (d : BitVec 16)
  | word (d : Word)
  | dword (d : BitVec 64)
deriving DecidableEq, Repr

/-- One statement of a host program as bus transactions (20_memory.md R71, 30_encoding.md R109). -/
inductive HostStmt where
  /-- `MemRead(off, size)` -/
  | read (off : Offset) (size : AccessSize)
  /-- `MemWrite(off, size, data)` -/
  | write (off : Offset) (data : BusData)
  /-- `poll`: repeat `MemRead(off, 4)`, one read per iteration, until the word read, masked, is `val` -/
  | poll (off : Offset) (mask val : Word)
deriving DecidableEq, Repr

/-- Who makes the next transition: the host or the engine (00_scope.md R20), or the platform, which applies reset
(70_reset_and_hazards.md R341). -/
inductive Turn where
  | host
  | engine
  | reset
deriving DecidableEq, Repr

/-- The state. The fields down to `r` are the engine's and hold everything 10_state.md R30 gives it; the last four are the
MODEL's own and hold its environment as plain data (logs 1 to 4). -/
structure State where
  /-- CTRL (10_state.md R34) -/
  ctrl : Ctrl
  /-- STATUS.BUSY (10_state.md R37) -/
  busy : Bool
  /-- STATUS.DONE (10_state.md R38) -/
  done : Bool
  /-- STATUS.ERR, EOVF, ERRCODE and ERRINFO (10_state.md R39, R41, R43) -/
  error : ErrorRecord
  /-- KB0..KB5 (10_state.md R44) -/
  kb : KeyBuffer
  /-- DIN_HI, DIN_LO (10_state.md R46) -/
  din : BlockWords
  /-- DOUT_HI, DOUT_LO (10_state.md R47) -/
  dout : BlockWords
  /-- RKSEL (10_state.md R48) -/
  rksel : RkSel
  /-- INST[1] (10_state.md R45) -/
  inst1 : KeySlot
  /-- INST[2] (10_state.md R45) -/
  inst2 : KeySlot
  /-- INST[3] (10_state.md R45) -/
  inst3 : KeySlot
  /-- CUROP, CURINST, PASS, RND (10_state.md R50) -/
  seq : Sequencer
  /-- L (10_state.md R51) -/
  l : BitVec 32
  /-- R (10_state.md R51) -/
  r : BitVec 32
  /-- MODEL: the statements the host program has still to perform, the next one first (log 1) -/
  host : List HostStmt
  /-- MODEL: who makes the next transitions, the next one first (log 2) -/
  sched : List Turn
  /-- MODEL: what the host's reads have returned, the latest first (log 3) -/
  reads : List BusData
  /-- MODEL: how many free values have been drawn (log 4) -/
  freeCount : Nat
deriving DecidableEq, Repr

/-- Reasons the machine stops. -/
inductive Fault where
  /-- Raised by the engine step in a state with BUSY = 1 whose CUROP, CURINST and PASS name no pass or no DES instance. By
  10_state.md R53 no reachable state is one; 93_implementation_defined.md part 2 calls `stuck` the only safe treatment of
  such states. Safe (log 7). -/
  | noSuchPass
deriving DecidableEq, Repr

/-- Reasons an instruction has no meaning in the model. -/
inductive Refusal where
  /-- Raised by exec's arm of an instruction that is not modelled yet; no arm raises it now. Safe. -/
  | notModelled (mnemonic : String)
deriving DecidableEq, Repr

/-- An unbound DES instance as reset and CLEAR leave it (70_reset_and_hazards.md R340, 45_control.md R261). -/
def KeySlot.unbound : KeySlot := { cd0 := 0, kv := false }

/-- The key buffer with every word 0 (70_reset_and_hazards.md R340). -/
def KeyBuffer.zero : KeyBuffer := { kb0 := 0, kb1 := 0, kb2 := 0, kb3 := 0, kb4 := 0, kb5 := 0 }

/-- The state right after reset (70_reset_and_hazards.md R340). The spec gives every field of the engine; the environment's
fields are empty: no host statement is pending and no turn is fixed (logs 1 to 4). -/
def State.reset : State where
  ctrl := { ieDone := false, ieErr := false }
  busy := false
  done := false
  error := { err := false, eovf := false, code := 0, info := 0 }
  kb := KeyBuffer.zero
  din := { hi := 0, lo := 0 }
  dout := { hi := 0, lo := 0 }
  rksel := { ridx := 0, sel := 0 }
  inst1 := KeySlot.unbound
  inst2 := KeySlot.unbound
  inst3 := KeySlot.unbound
  seq := { curop := 0, curinst := 0, pass := 0, rnd := 0 }
  l := 0
  r := 0
  host := []
  sched := []
  reads := []
  freeCount := 0

end Sys2Proof.Machine
end

