-- ==== Sys2Proof/Machine/Ops.lean ====
section
/-! DEFINITION. The named operations on the state that commands, bus accesses and engine steps share: raising an error and returning from it, the DES instances, starting, completing and abandoning a run. -/

namespace Sys2Proof.Machine

/-- `raise PreconditionViolation(code, info)`, the engine's trap entry (60_exceptions.md R304): the first error is recorded in
full, a later one only sets EOVF. Nothing else changes (R305) and control goes nowhere (R300). -/
def raise (code : ErrCode) (info : Word) (s : State) : State :=
  if s.error.err then { s with error := { s.error with eovf := true } }
  else { s with error := { s.error with err := true, code := code.toBits, info := info } }

/-- `status_w1c(w)`, the engine's return from a trap (60_exceptions.md R308): bit 1 clears DONE, bit 2 clears ERR, ERRCODE and
ERRINFO, bit 3 clears EOVF; every other bit is ignored. -/
def statusW1c (w : Word) (s : State) : State :=
  { s with
    done := s.done && !w.getLsbD 1
    error :=
      { err := s.error.err && !w.getLsbD 2
        eovf := s.error.eovf && !w.getLsbD 3
        code := if w.getLsbD 2 then 0 else s.error.code
        info := if w.getLsbD 2 then 0 else s.error.info } }

/-- `INST[s]`, for the instance numbers 1, 2, 3; the number 0 names none (10_state.md R45, 30_encoding.md R103). -/
def State.slot? (s : State) (inst : BitVec 2) : Option KeySlot :=
  if inst = 1 then some s.inst1
  else if inst = 2 then some s.inst2
  else if inst = 3 then some s.inst3
  else none

/-- `INST[s].KV = 1`: the instance is bound (00_scope.md R22); the number 0 names no instance and is not bound. -/
def State.bound (s : State) (inst : BitVec 2) : Bool := ((s.slot? inst).map KeySlot.kv).getD false

/-- Every instance is bound (44_tdea.md R241). -/
def State.allBound (s : State) : Bool := s.inst1.kv && s.inst2.kv && s.inst3.kv

/-- What binding a key stores in an instance: CD0 = PC1(key) and KV = 1 (41_key_schedule.md R171, R176). -/
def KeySlot.ofKey (key : BitVec 64) : KeySlot := { cd0 := pc1 key, kv := true }

/-- Binds a key to one instance and leaves the other two (41_key_schedule.md R176); the number 0 names no instance. -/
def bindKey (inst : BitVec 2) (key : BitVec 64) (s : State) : State :=
  { s with
    inst1 := if inst = 1 then KeySlot.ofKey key else s.inst1
    inst2 := if inst = 2 then KeySlot.ofKey key else s.inst2
    inst3 := if inst = 3 then KeySlot.ofKey key else s.inst3 }

/-- Binds the three instances in one transition (41_key_schedule.md R177). -/
def bindAll (k1 k2 k3 : BitVec 64) (s : State) : State :=
  { s with inst1 := KeySlot.ofKey k1, inst2 := KeySlot.ofKey k2, inst3 := KeySlot.ofKey k3 }

/-- The end of a command that completes in the transition that accepts it: CUROP is its OP and DONE is set
(10_state.md R38, R42). -/
def completeAtOnce (op : BitVec 4) (s : State) : State :=
  { s with done := true, seq := { s.seq with curop := op } }

/-- The block as two words (20_memory.md R78). -/
def BlockWords.ofBlock (x : BitVec 64) : BlockWords := { hi := slice x 0 32, lo := slice x 32 32 }

/-- The two words as a block: `toBits(HI) ++ toBits(LO)` (10_state.md R46). -/
def BlockWords.block (b : BlockWords) : BitVec 64 := b.hi ++ b.lo

/-- `start(op, s)`: the transition that accepts a command of 16 or 48 rounds (43_des.md R212). DIN is sampled here. -/
def start (op : BitVec 4) (inst : BitVec 2) (s : State) : State :=
  { s with
    busy := true
    done := false
    seq := { curop := op, curinst := inst, pass := 1, rnd := 0 }
    l := (splitBlock s.din.block).1
    r := (splitBlock s.din.block).2 }

/-- `finish(X)`: the completion of the last pass, in the step that performed its 16th round (43_des.md R214). L and R are
free values from here on (10_state.md R51, 92_eei_decisions.md D30; log 4). -/
def finish (x : BitVec 64) (s : State) : State :=
  { s with
    dout := BlockWords.ofBlock x
    busy := false
    done := true
    seq := { s.seq with pass := 0, rnd := 0 }
    l := (Config.halvesAfterRun s.freeCount s.l s.r).1
    r := (Config.halvesAfterRun s.freeCount s.l s.r).2
    freeCount := s.freeCount + 1 }

/-- The hand-over to the next pass of a TDEA command, in the step that performed a pass's 16th round
(43_des.md R213, 44_tdea.md R244). -/
def handOver (x : BitVec 64) (s : State) : State :=
  { s with
    seq := { s.seq with pass := s.seq.pass + 1, rnd := 0 }
    l := (splitBlock x).1
    r := (splitBlock x).2 }

/-- What CLEAR does before it completes: abandons any run and erases keys, key buffer, half-blocks and result
(45_control.md R261, R262). -/
def eraseAll (s : State) : State :=
  { s with
    busy := false
    kb := KeyBuffer.zero
    dout := { hi := 0, lo := 0 }
    inst1 := KeySlot.unbound
    inst2 := KeySlot.unbound
    inst3 := KeySlot.unbound
    seq := { s.seq with curinst := 0, pass := 0, rnd := 0 }
    l := 0
    r := 0 }

/-- Reset as a transition of the platform: the engine's whole state takes its reset value, whatever it was
(70_reset_and_hazards.md R340, R341). What the host has still to do and has read stays: the environment is no part of the
engine. -/
def applyReset (s : State) : State :=
  { State.reset with host := s.host, sched := s.sched, reads := s.reads, freeCount := s.freeCount }

end Sys2Proof.Machine
end

