-- ==== Sys2Proof/Machine/Operands.lean ====
section
/-! DEFINITION. The operands of the commands: key segments, TDEA key material, and the checks of 60_exceptions.md R303 on INST, LEN and the instances, in their order. -/

namespace Sys2Proof.Machine

/-- `KB.seg(0)`, key-buffer bytes 0..7 (10_state.md R44). -/
def KeyBuffer.seg0 (kb : KeyBuffer) : BitVec 64 := kb.kb0 ++ kb.kb1

/-- `KB.seg(1)`, key-buffer bytes 8..15 (10_state.md R44). -/
def KeyBuffer.seg1 (kb : KeyBuffer) : BitVec 64 := kb.kb2 ++ kb.kb3

/-- `KB.seg(2)`, key-buffer bytes 16..23 (10_state.md R44). -/
def KeyBuffer.seg2 (kb : KeyBuffer) : BitVec 64 := kb.kb4 ++ kb.kb5

/-- `K2 <- if n >= 16 then KB.seg(1) else K1` (41_key_schedule.md R177, R178). -/
def KeyBuffer.tdeaKey2 (kb : KeyBuffer) (len : BitVec 5) : BitVec 64 := if 16 ≤ len then kb.seg1 else kb.seg0

/-- `K3 <- if n = 24 then KB.seg(2) else K1` (41_key_schedule.md R177, R178). -/
def KeyBuffer.tdeaKey3 (kb : KeyBuffer) (len : BitVec 5) : BitVec 64 := if len = 24 then kb.seg2 else kb.seg0

/-- The code of the first check that fails: only that one is reported (60_exceptions.md R303). -/
def firstFailing : List (Bool × ErrCode) → Option ErrCode
  | [] => none
  | (failed, code) :: rest => if failed then some code else firstFailing rest

/-- NOP: only the BUSY check (60_exceptions.md R303). -/
def nopCheck (s : State) : Option ErrCode := firstFailing [(s.busy, .busy)]

/-- DES_SETKEY: BUSY, BADINST, KEYLEN (60_exceptions.md R303). -/
def desSetkeyCheck (inst : BitVec 2) (len : BitVec 5) (s : State) : Option ErrCode :=
  firstFailing [(s.busy, .busy), (inst == 0, .badInst), (len != 8, .keyLen)]

/-- TDEA_SETKEY: BUSY, KEYLEN (60_exceptions.md R303). -/
def tdeaSetkeyCheck (len : BitVec 5) (s : State) : Option ErrCode :=
  firstFailing [(s.busy, .busy), (!(len == 8 || len == 16 || len == 24), .keyLen)]

/-- DES_ENC and DES_DEC: BUSY, BADINST, BLOCKLEN, NOKEY (60_exceptions.md R303). -/
def desRunCheck (inst : BitVec 2) (len : BitVec 5) (s : State) : Option ErrCode :=
  firstFailing [(s.busy, .busy), (inst == 0, .badInst), (len != 8, .blockLen), (!s.bound inst, .noKey)]

/-- TDEA_ENC and TDEA_DEC: BUSY, BLOCKLEN, NOKEY (60_exceptions.md R303, 44_tdea.md R241). -/
def tdeaRunCheck (len : BitVec 5) (s : State) : Option ErrCode :=
  firstFailing [(s.busy, .busy), (len != 8, .blockLen), (!s.allBound, .noKey)]

/-- A command after its checks: the first failing check is raised, with the command word as information, and ends the
command; with none failing the command acts (60_exceptions.md R303, R304). -/
def accept (check : Option ErrCode) (word : Word) (accepted s : State) : Host.Outcome State Fault Refusal :=
  match check with
  | some code => .next (raise code word s)
  | none => .next accepted

end Sys2Proof.Machine
end

