-- ==== Sys2Proof/Machine/ControlCommands.lean ====
section
/-! DEFINITION. The control commands NOP and CLEAR (45_control.md R260 to R262). -/

namespace Sys2Proof.Machine

/-- NOP: sets DONE and CUROP and nothing else; rejected while busy (45_control.md R260). -/
def execNop (s : State) : Host.Outcome State Fault Refusal :=
  accept (nopCheck s) (encode .nop) (completeAtOnce 0x0 s) s

/-- CLEAR: abandons any run, erases all key material and the result; exempt from the BUSY check, so it is always accepted
(45_control.md R261, R262; 60_exceptions.md R303). -/
def execClear (s : State) : Host.Outcome State Fault Refusal :=
  accept none (encode .clear) (completeAtOnce 0x7 (eraseAll s)) s

end Sys2Proof.Machine
end

