-- ==== Sys2Proof/Machine/DesCommands.lean ====
section
/-! DEFINITION. The single-DES commands DES_ENC and DES_DEC (43_des.md R215, R216): their acceptance; the rounds are the engine's steps (Machine/Engine.lean). -/

namespace Sys2Proof.Machine

/-- DES_ENC: starts the encryption of DIN under the instance INST (43_des.md R215). -/
def execDesEnc (inst : BitVec 2) (len : BitVec 5) (s : State) : Host.Outcome State Fault Refusal :=
  accept (desRunCheck inst len s) (encode (.desEnc inst len)) (start 0x3 inst s) s

/-- DES_DEC: starts the decryption of DIN under the instance INST (43_des.md R216). -/
def execDesDec (inst : BitVec 2) (len : BitVec 5) (s : State) : Host.Outcome State Fault Refusal :=
  accept (desRunCheck inst len s) (encode (.desDec inst len)) (start 0x4 inst s) s

end Sys2Proof.Machine
end

