-- ==== Sys2Proof/Machine/KeyCommands.lean ====
section
/-! DEFINITION. The key-binding commands DES_SETKEY and TDEA_SETKEY (41_key_schedule.md R176 to R178). -/

namespace Sys2Proof.Machine

/-- DES_SETKEY: binds KB.seg(0) to the instance INST (41_key_schedule.md R176). -/
def execDesSetkey (inst : BitVec 2) (len : BitVec 5) (s : State) : Host.Outcome State Fault Refusal :=
  accept (desSetkeyCheck inst len s) (encode (.desSetkey inst len))
    (completeAtOnce 0x1 (bindKey inst s.kb.seg0 s)) s

/-- TDEA_SETKEY: binds the three instances from KB, as LEN selects (41_key_schedule.md R177, R178). -/
def execTdeaSetkey (len : BitVec 5) (s : State) : Host.Outcome State Fault Refusal :=
  accept (tdeaSetkeyCheck len s) (encode (.tdeaSetkey len))
    (completeAtOnce 0x2 (bindAll s.kb.seg0 (s.kb.tdeaKey2 len) (s.kb.tdeaKey3 len) s)) s

end Sys2Proof.Machine
end

