-- ==== Sys2Proof/Machine/TdeaCommands.lean ====
section
/-! DEFINITION. The TDEA commands TDEA_ENC and TDEA_DEC (44_tdea.md R241 to R243): their acceptance; the passes are the engine's steps (Machine/Engine.lean). -/

namespace Sys2Proof.Machine

/-- TDEA_ENC: starts the encryption of DIN under the three instances (44_tdea.md R242). -/
def execTdeaEnc (len : BitVec 5) (s : State) : Host.Outcome State Fault Refusal :=
  accept (tdeaRunCheck len s) (encode (.tdeaEnc len)) (start 0x5 0 s) s

/-- TDEA_DEC: starts the decryption of DIN under the three instances (44_tdea.md R243). -/
def execTdeaDec (len : BitVec 5) (s : State) : Host.Outcome State Fault Refusal :=
  accept (tdeaRunCheck len s) (encode (.tdeaDec len)) (start 0x6 0 s) s

end Sys2Proof.Machine
end

