-- ==== Sys2Proof/Machine/Dispatch.lean ====
section
/-! DEFINITION. The meaning of every command: one arm per constructor of Instr (60_exceptions.md R303). -/

namespace Sys2Proof.Machine

def exec (i : Instr) (s : State) : Host.Outcome State Fault Refusal :=
  match i with
  | .nop => Sys2Proof.Machine.execNop s
  | .desSetkey inst len => Sys2Proof.Machine.execDesSetkey inst len s
  | .tdeaSetkey len => Sys2Proof.Machine.execTdeaSetkey len s
  | .desEnc inst len => Sys2Proof.Machine.execDesEnc inst len s
  | .desDec inst len => Sys2Proof.Machine.execDesDec inst len s
  | .tdeaEnc len => Sys2Proof.Machine.execTdeaEnc len s
  | .tdeaDec len => Sys2Proof.Machine.execTdeaDec len s
  | .clear => Sys2Proof.Machine.execClear s

end Sys2Proof.Machine
end

