-- ==== Sys2Proof/Machine/Flags.lean ====
section
/-! DEFINITION. The words that show flags and fields to the host: STATUS, CTRL, RKSEL, the round-key readout, and the irq line (10_state.md R34, R36, R48, R49, R54). -/

namespace Sys2Proof.Machine

/-- A field of a register word: its value, zero-extended, with its bit 0 at bit `lo` (00_scope.md R17, R18). -/
def placeField {n : Nat} (value : BitVec n) (lo : Nat) : Word := value.setWidth 32 <<< lo

/-- The STATUS word (10_state.md R36): bits 7, 19:18 and 31:24 are reserved and read 0. -/
def statusWord (s : State) : Word :=
  placeField (BitVec.ofBool s.busy) 0
    ||| placeField (BitVec.ofBool s.done) 1
    ||| placeField (BitVec.ofBool s.error.err) 2
    ||| placeField (BitVec.ofBool s.error.eovf) 3
    ||| placeField (BitVec.ofBool s.inst1.kv) 4
    ||| placeField (BitVec.ofBool s.inst2.kv) 5
    ||| placeField (BitVec.ofBool s.inst3.kv) 6
    ||| placeField s.error.code 8
    ||| placeField s.seq.curop 12
    ||| placeField s.seq.pass 16
    ||| placeField s.seq.rnd 20

/-- The CTRL word, `zext_32(IE_ERR << 1 | IE_DONE)` (10_state.md R34). -/
def ctrlWord (c : Ctrl) : Word := placeField (BitVec.ofBool c.ieErr) 1 ||| placeField (BitVec.ofBool c.ieDone) 0

/-- What a write of a word leaves in CTRL (10_state.md R34, 20_memory.md R74). -/
def Ctrl.ofWord (w : Word) : Ctrl := { ieDone := w.getLsbD 0, ieErr := w.getLsbD 1 }

/-- The RKSEL word, `zext_32(SEL << 4 | RIDX)` (10_state.md R48). -/
def rkselWord (k : RkSel) : Word := placeField k.sel 4 ||| placeField k.ridx 0

/-- What a write of a word leaves in RKSEL (10_state.md R48, 20_memory.md R74). -/
def RkSel.ofWord (w : Word) : RkSel := { ridx := w.extractLsb' 0 4, sel := w.extractLsb' 4 2 }

/-- The round key the debug readout shows: RoundKey(INST[s].CD0, r) for a bound instance s = SEL and r = RIDX, and
otherwise none (10_state.md R49). -/
def readoutKey (s : State) : Option (BitVec 48) :=
  match s.slot? s.rksel.sel with
  | some k => if k.kv then some (roundKey k.cd0 s.rksel.ridx) else none
  | none => none

/-- RK_HI, `zext_32(toNat(K.slice(0, 16)))`, or 0 (10_state.md R49). -/
def rkHiWord (s : State) : Word := ((readoutKey s).map fun k => (slice k 0 16).setWidth 32).getD 0

/-- RK_LO, `toNat(K.slice(16, 48))`, or 0 (10_state.md R49). -/
def rkLoWord (s : State) : Word := ((readoutKey s).map fun k => slice k 16 32).getD 0

/-- The irq line, `(IE_DONE & DONE) | (IE_ERR & ERR)`: a level output, a function of the state (10_state.md R54,
60_exceptions.md R315). -/
def irq (s : State) : Bool := s.ctrl.ieDone && s.done || s.ctrl.ieErr && s.error.err

end Sys2Proof.Machine
end

