-- ==== Sys2Proof/Machine/RegMap.lean ====
section
/-! DEFINITION. The register map: names, offsets, access kinds and read values (10_state.md R32 to R49), and the legality of a transaction (20_memory.md R72). -/

namespace Sys2Proof.Machine

/-- The registers of the register map (10_state.md R32). -/
inductive Reg where
  | id
  | ctrl
  | cmd
  | status
  | errInfo
  | kb0
  | kb1
  | kb2
  | kb3
  | kb4
  | kb5
  | dinHi
  | dinLo
  | doutHi
  | doutLo
  | rksel
  | rkHi
  | rkLo
deriving DecidableEq, Repr

/-- Access kinds (10_state.md R32): read-only, write-only, read-write, and STATUS's read-only with W1C fields. -/
inductive Access where
  | ro
  | wo
  | rw
  | w1c
deriving DecidableEq, Repr

/-- The byte offset of a register (10_state.md R32). -/
def Reg.offset : Reg → Offset
  | .id => 0x00
  | .ctrl => 0x04
  | .cmd => 0x08
  | .status => 0x0C
  | .errInfo => 0x10
  | .kb0 => 0x20
  | .kb1 => 0x24
  | .kb2 => 0x28
  | .kb3 => 0x2C
  | .kb4 => 0x30
  | .kb5 => 0x34
  | .dinHi => 0x40
  | .dinLo => 0x44
  | .doutHi => 0x48
  | .doutLo => 0x4C
  | .rksel => 0x50
  | .rkHi => 0x54
  | .rkLo => 0x58

/-- The access kind of a register (10_state.md R32). -/
def Reg.access : Reg → Access
  | .id => .ro
  | .ctrl => .rw
  | .cmd => .wo
  | .status => .w1c
  | .errInfo => .ro
  | .kb0 => .wo
  | .kb1 => .wo
  | .kb2 => .wo
  | .kb3 => .wo
  | .kb4 => .wo
  | .kb5 => .wo
  | .dinHi => .rw
  | .dinLo => .rw
  | .doutHi => .ro
  | .doutLo => .ro
  | .rksel => .rw
  | .rkHi => .ro
  | .rkLo => .ro

/-- Every register, in the order of the map (10_state.md R32). -/
def Reg.all : List Reg :=
  [.id, .ctrl, .cmd, .status, .errInfo, .kb0, .kb1, .kb2, .kb3, .kb4, .kb5,
   .dinHi, .dinLo, .doutHi, .doutLo, .rksel, .rkHi, .rkLo]

/-- The register at an offset; every other offset is reserved or misaligned and has none (10_state.md R32). -/
def regAt (off : Offset) : Option Reg := Reg.all.find? fun r => r.offset == off

/-- ID, constant: "DES" and interface version 1 (10_state.md R33). -/
def idWord : Word := 0x44455301

/-- The value a legal read of a register returns (10_state.md R33 to R49; 20_memory.md R73): write-only registers read 0. -/
def Reg.value (s : State) : Reg → Word
  | .id => idWord
  | .ctrl => ctrlWord s.ctrl
  | .cmd => 0
  | .status => statusWord s
  | .errInfo => s.error.info
  | .kb0 => 0
  | .kb1 => 0
  | .kb2 => 0
  | .kb3 => 0
  | .kb4 => 0
  | .kb5 => 0
  | .dinHi => s.din.hi
  | .dinLo => s.din.lo
  | .doutHi => s.dout.hi
  | .doutLo => s.dout.lo
  | .rksel => rkselWord s.rksel
  | .rkHi => rkHiWord s
  | .rkLo => rkLoWord s

/-- The access size in bytes (20_memory.md R71). -/
def AccessSize.bytes : AccessSize → Nat
  | .byte => 1
  | .half => 2
  | .word => 4
  | .dword => 8

/-- The size of the data of a write (20_memory.md R71). -/
def BusData.size : BusData → AccessSize
  | .byte _ => .byte
  | .half _ => .half
  | .word _ => .word
  | .dword _ => .dword

/-- Data of `size × 8` zero bits, which an illegal read returns (20_memory.md R75). -/
def BusData.zero : AccessSize → BusData
  | .byte => .byte 0
  | .half => .half 0
  | .word => .word 0
  | .dword => .dword 0

/-- `off mod 4 = 0` (20_memory.md R72, R79). -/
def aligned (off : Offset) : Bool := off.toNat % 4 == 0

/-- The register a read of the given size reaches, if the read is legal (20_memory.md R72). -/
def legalRead (off : Offset) (size : AccessSize) : Option Reg :=
  if size.bytes = 4 ∧ aligned off then regAt off else none

/-- The register a write of the given size reaches, if the write is legal: as for a read, and the register is not RO
(20_memory.md R72). -/
def legalWrite (off : Offset) (size : AccessSize) : Option Reg :=
  (legalRead off size).filter fun r => r.access != .ro

end Sys2Proof.Machine
end

