-- ==== Sys2Proof/Machine/Bus.lean ====
section
/-! DEFINITION. Host transactions on the register space (20_memory.md R70 to R76), command submission (60_exceptions.md R303), access errors (60_exceptions.md R311) and the platform's placement of the space (20_memory.md R70). -/

namespace Sys2Proof.Machine

/-- `submit_command(w)` (60_exceptions.md R303): a word that does not decode is rejected with BADCMD; the remaining checks and
the effect are the command's own. -/
def submitCommand (w : Word) (s : State) : Host.Outcome State Fault Refusal :=
  match decode w with
  | .bad code => .next (raise code w s)
  | .ok i => exec i s

/-- The information word of an access error, `zext_32((((size - 1) mod 16) << 12) + (write << 8) + off)`
(10_state.md R43, 60_exceptions.md R311, 90_conflicts.md C6). -/
def accessInfo (off : Offset) (size : AccessSize) (write : Bool) : Word :=
  BitVec.ofNat 32 ((((size.bytes - 1) % 16) <<< 12) + (write.toNat <<< 8) + off.toNat)

/-- The effect of an illegal transaction: BADACCESS and nothing else (60_exceptions.md R311). -/
def raiseBadAccess (off : Offset) (size : AccessSize) (write : Bool) (s : State) : State :=
  raise .badAccess (accessInfo off size write) s

/-- `MemRead(off, size)`: the data it returns (20_memory.md R73, R75). -/
def readData (off : Offset) (size : AccessSize) (s : State) : BusData :=
  match legalRead off size with
  | some r => .word (r.value s)
  | none => BusData.zero size

/-- `MemRead(off, size)`: the state it leaves. A legal read changes nothing of the engine, an illegal one records an access
error (20_memory.md R73, R75). The data is kept for the host. -/
def memRead (off : Offset) (size : AccessSize) (s : State) : State :=
  let after := match legalRead off size with
    | some _ => s
    | none => raiseBadAccess off size false s
  { after with reads := readData off size s :: s.reads }

/-- A legal write of a word to a register (20_memory.md R74). The read-only registers are not reached: a write to one is
illegal (20_memory.md R72). -/
def writeReg (r : Reg) (w : Word) (s : State) : Host.Outcome State Fault Refusal :=
  match r with
  | .ctrl => .next { s with ctrl := Ctrl.ofWord w }
  | .cmd => submitCommand w s
  | .status => .next (statusW1c w s)
  | .kb0 => .next { s with kb := { s.kb with kb0 := w } }
  | .kb1 => .next { s with kb := { s.kb with kb1 := w } }
  | .kb2 => .next { s with kb := { s.kb with kb2 := w } }
  | .kb3 => .next { s with kb := { s.kb with kb3 := w } }
  | .kb4 => .next { s with kb := { s.kb with kb4 := w } }
  | .kb5 => .next { s with kb := { s.kb with kb5 := w } }
  | .dinHi => .next { s with din := { s.din with hi := w } }
  | .dinLo => .next { s with din := { s.din with lo := w } }
  | .rksel => .next { s with rksel := RkSel.ofWord w }
  | .id | .errInfo | .doutHi | .doutLo | .rkHi | .rkLo => .next s

/-- `MemWrite(off, size, data)` (20_memory.md R74, R75): the size is that of the data. -/
def memWrite (off : Offset) (data : BusData) (s : State) : Host.Outcome State Fault Refusal :=
  match legalWrite off data.size, data with
  | some r, .word w => writeReg r w s
  | _, _ => .next (raiseBadAccess off data.size true s)

/-- The host address of an offset, `ENGINE_BASE + off` (20_memory.md R70). -/
def hostAddress (off : Offset) : Nat := Config.engineBase + off.toNat

/-- The offset a host address reaches: `ENGINE_BASE + off` reaches off, for off in 0x00..0xFF; no other address reaches the
engine (20_memory.md R70, 92_eei_decisions.md D34). -/
def offsetOfAddress (addr : Nat) : Option Offset :=
  if Config.engineBase ≤ addr ∧ addr < Config.engineBase + 256 then
    some (BitVec.ofNat 8 (addr - Config.engineBase))
  else none

end Sys2Proof.Machine
end

