-- ==== Sys2Proof/Machine/Engine.lean ====
section
/-! DEFINITION. The engine agent: the pass schedule (43_des.md R210) and the engine step, one Feistel round (43_des.md R213). -/

namespace Sys2Proof.Machine

/-- The passes of a command, in order, as pairs of an instance and a direction; their number is npass (43_des.md R210). -/
def passes (curop : BitVec 4) (curinst : BitVec 2) : List (BitVec 2 × Dir) :=
  if curop = 0x3 then [(curinst, .enc)]
  else if curop = 0x4 then [(curinst, .dec)]
  else if curop = 0x5 then [(1, .enc), (2, .dec), (3, .enc)]
  else if curop = 0x6 then [(3, .dec), (2, .enc), (1, .dec)]
  else []

/-- `npass(CUROP)` (43_des.md R210). -/
def npass (curop : BitVec 4) : Nat := (passes curop 0).length

/-- `sched(CUROP, CURINST)[PASS]`, counted from 1, with the CD0 of its instance; none where the sequencer names no pass or
no instance, which no reachable state does (10_state.md R53). -/
def currentPass (s : State) : Option (BitVec 56 × Dir) :=
  if s.seq.pass = 0 then none
  else
    match (passes s.seq.curop s.seq.curinst)[s.seq.pass.toNat - 1]? with
    | some (inst, dir) => (s.slot? inst).map fun k => (k.cd0, dir)
    | none => none

/-- The round index of the next round: RND to encrypt, 15 - RND to decrypt (43_des.md R213). -/
def roundIndex (dir : Dir) (rnd : BitVec 4) : BitVec 4 :=
  match dir with
  | .enc => rnd
  | .dec => 15 - rnd

/-- The part of an engine step that every one performs: one round on L and R (43_des.md R213). -/
def performRound (cd0 : BitVec 56) (dir : Dir) (s : State) : State :=
  { s with
    l := (feistelRound (roundKey cd0 (roundIndex dir s.seq.rnd)) (s.l, s.r)).1
    r := (feistelRound (roundKey cd0 (roundIndex dir s.seq.rnd)) (s.l, s.r)).2 }

/-- The round just performed is counted (43_des.md R213). -/
def countRound (s : State) : State := { s with seq := { s.seq with rnd := s.seq.rnd + 1 } }

/-- The part of an engine step after the round: the next round, the hand-over to the next pass, or completion
(43_des.md R213, R214). -/
def advance (s : State) : State :=
  if s.seq.rnd < 15 then countRound s
  else if s.seq.pass.toNat < npass s.seq.curop then handOver (joinHalves (s.l, s.r)) s
  else finish (joinHalves (s.l, s.r)) s

/-- The engine step, enabled exactly when BUSY = 1 (43_des.md R213). -/
def engineStep (s : State) : Host.Outcome State Fault Refusal :=
  match currentPass s with
  | some (cd0, dir) => .next (advance (performRound cd0 dir s))
  | none => .fault .noSuchPass

end Sys2Proof.Machine
end

