-- ==== Sys2Proof/Machine/Agents.lean ====
section
/-! DEFINITION. The agents' transitions and whose turn it is (00_scope.md R20; 70_reset_and_hazards.md R341, R350). -/

namespace Sys2Proof.Machine

/-- The word a poll compares: an illegal read returns 0 (30_encoding.md R109, 20_memory.md R75). -/
def polledWord (off : Offset) (s : State) : Word :=
  match readData off .word s with
  | .word w => w
  | _ => 0

/-- The host's transition: the next transaction of its program. A poll performs one read and stays until the word it reads
matches (30_encoding.md R109). A host with nothing to do leaves everything as it is. -/
def hostTurn (s : State) : Host.Outcome State Fault Refusal :=
  match s.host with
  | [] => .next s
  | .read off size :: rest => .next (memRead off size { s with host := rest })
  | .write off data :: rest => memWrite off data { s with host := rest }
  | .poll off mask val :: rest =>
    if polledWord off s &&& mask = val then .next (memRead off .word { s with host := rest })
    else .next (memRead off .word s)

/-- The engine's transition: an engine step where it is enabled; a turn given to an idle engine passes
(43_des.md R213). -/
def engineTurn (s : State) : Host.Outcome State Fault Refusal :=
  if s.busy then engineStep s else .next s

/-- Whose turn is next, and the state with that turn taken off the schedule. With no turn fixed, the engine moves while it
is busy and the host otherwise: a fair order, and a choice of the model's (log 2). -/
def nextTurn (s : State) : Turn × State :=
  match s.sched with
  | t :: rest => (t, { s with sched := rest })
  | [] => (if s.busy then .engine else .host, s)

/-- The transition of an agent (00_scope.md R20, 70_reset_and_hazards.md R341). -/
def agentTurn (t : Turn) (s : State) : Host.Outcome State Fault Refusal :=
  match t with
  | .host => hostTurn s
  | .engine => engineTurn s
  | .reset => .next (applyReset s)

/-- One transition of the machine: that of the agent whose turn it is. -/
def takeTurn (s : State) : Host.Outcome State Fault Refusal :=
  agentTurn (nextTurn s).1 (nextTurn s).2

/-- The state in which the host's next transaction, made in the very next transition, is a write of a command word to CMD. -/
def placeCommand (w : Word) (s : State) : State :=
  { s with
    host := .write Reg.cmd.offset (.word w) :: s.host
    sched := .host :: s.sched }

end Sys2Proof.Machine
end

