-- ==== Sys2Proof/Machine/Step.lean ====
section
/-! DEFINITION. One step of the machine, and the placing of a command where the next step takes it up. -/

namespace Sys2Proof.Machine

/-- One step: the transition of the agent whose turn it is (00_scope.md R20). -/
def step : State → Host.Outcome State Fault Refusal := takeTurn

/-- The state whose next step submits the command word that spec/opcode_table.json's numbering gives as `w`: a host write of
it to CMD stands first in the host's program and the next turn is the host's (30_encoding.md R100; log 1). -/
def State.withFetchWord (s : State) (nbits w : Nat) : State := placeCommand (tableWord nbits w) s

end Sys2Proof.Machine
end

