-- ==== Sys2Proof/WellFormed.lean ====
section
/-! DEFINITION. Well-formed commands: the operands 30_encoding.md R102 requires of a command. -/

namespace Sys2Proof

/-- INST names a DES instance, 1..3 (30_encoding.md R102, R103). -/
def Instr.namesInstance (inst : BitVec 2) : Bool := inst != 0

/-- LEN is the length of a DES key or of a block, 8 bytes (30_encoding.md R102, R104). -/
def Instr.eightBytes (len : BitVec 5) : Bool := len == 8

/-- LEN is one of the three lengths of TDEA key material (30_encoding.md R102, 41_key_schedule.md R178). -/
def Instr.tdeaKeyLength (len : BitVec 5) : Bool := len == 8 || len == 16 || len == 24

/-- The columns INST and 'LEN required' of 30_encoding.md R102: the commands a conforming host writes (R107). A command
that is not well formed still has an encoding, a decoding and a meaning: the engine rejects it with BADINST, KEYLEN or
BLOCKLEN (60_exceptions.md R303). -/
def Instr.wellFormed : Instr → Bool
  | .nop => true
  | .desSetkey inst len => namesInstance inst && eightBytes len
  | .tdeaSetkey len => tdeaKeyLength len
  | .desEnc inst len => namesInstance inst && eightBytes len
  | .desDec inst len => namesInstance inst && eightBytes len
  | .tdeaEnc len => eightBytes len
  | .tdeaDec len => eightBytes len
  | .clear => true

end Sys2Proof
end

