-- ==== Sys2Proof/Machine/Driver.lean ====
section
/-! DEFINITION. Host programs: the assembler mnemonics, host statements and pseudo-instructions of 30_encoding.md R108 to R110, and the driver that maps the source's calls onto them (70_reset_and_hazards.md R352, R353). They produce host statements; the engine knows nothing of them. -/

namespace Sys2Proof.Machine

/-- The command mnemonics of 30_encoding.md R108, with an optional `len=` where the syntax has one, and `.cmdword`. -/
inductive AsmCommand where
  | nop
  | desSetkey (s : BitVec 2) (len : Option (BitVec 5))
  | tdeaSetkey (len : BitVec 5)
  | desEnc (s : BitVec 2) (len : Option (BitVec 5))
  | desDec (s : BitVec 2) (len : Option (BitVec 5))
  | tdeaEnc (len : Option (BitVec 5))
  | tdeaDec (len : Option (BitVec 5))
  | clear
  | cmdword (imm : Word)
deriving DecidableEq, Repr

/-- The command word a mnemonic stands for; an absent `len=` is 8 (30_encoding.md R108). -/
def assemble : AsmCommand → Word
  | .nop => encode .nop
  | .desSetkey s len => encode (.desSetkey s (len.getD 8))
  | .tdeaSetkey len => encode (.tdeaSetkey len)
  | .desEnc s len => encode (.desEnc s (len.getD 8))
  | .desDec s len => encode (.desDec s (len.getD 8))
  | .tdeaEnc len => encode (.tdeaEnc (len.getD 8))
  | .tdeaDec len => encode (.tdeaDec (len.getD 8))
  | .clear => encode .clear
  | .cmdword imm => imm

/-- `wr <REG>, <imm32>` (30_encoding.md R109). -/
def wr (r : Reg) (imm : Word) : HostStmt := .write r.offset (.word imm)

/-- `rd <REG>` (30_encoding.md R109); the value read stands in the state's `reads`. -/
def rd (r : Reg) : HostStmt := .read r.offset .word

/-- `poll <REG>, <mask>, <val>` (30_encoding.md R109). -/
def poll (r : Reg) (mask val : Word) : HostStmt := .poll r.offset mask val

/-- `cmd <command>` (30_encoding.md R109). -/
def cmd (c : AsmCommand) : HostStmt := wr .cmd (assemble c)

/-- `ldkey seg<j>, X`, j = 0, 1, 2 (30_encoding.md R110). -/
def ldkey (j : Fin 3) (x : BitVec 64) : List HostStmt :=
  match j with
  | 0 => [wr .kb0 (slice x 0 32), wr .kb1 (slice x 32 32)]
  | 1 => [wr .kb2 (slice x 0 32), wr .kb3 (slice x 32 32)]
  | 2 => [wr .kb4 (slice x 0 32), wr .kb5 (slice x 32 32)]

/-- `ldblk X` (30_encoding.md R110). -/
def ldblk (x : BitVec 64) : List HostStmt := [wr .dinHi (slice x 0 32), wr .dinLo (slice x 32 32)]

/-- `wait` (30_encoding.md R110). -/
def wait : HostStmt := poll .status 0x00000001 0x00000000

/-- `rdout` (30_encoding.md R110). -/
def rdout : List HostStmt := [rd .doutHi, rd .doutLo]

/-- `ack`: clears DONE, ERR and EOVF (30_encoding.md R110). -/
def ackFlags : HostStmt := wr .status 0x0000000E

/-- `rdrk i<s>, r<r>` (30_encoding.md R110). -/
def rdrk (s : BitVec 2) (r : BitVec 4) : List HostStmt :=
  [wr .rksel (rkselWord { ridx := r, sel := s }), rd .rkHi, rd .rkLo]

/-- The 8-byte segment j of a byte string, the first byte in indices 0..7 (00_scope.md R19). A DES key shorter than 8 bytes is
padded with zeros (70_reset_and_hazards.md R353). DESIGN CHOICE, log 13: a block shorter than 8 bytes is padded in the same
way, and of a key or block longer than 8 bytes its first 8 are loaded; the spec does not say what is loaded there. -/
def segment (bytes : List (BitVec 8)) (j : Nat) : BitVec 64 :=
  (List.range 8).foldl (fun acc i => acc <<< 8 ||| (bytes.getD (8 * j + i) 0).setWidth 64) 0

/-- `min(len(x), 31)`, what the driver puts into LEN (70_reset_and_hazards.md R353, 92_eei_decisions.md D28). -/
def declaredLength (bytes : List (BitVec 8)) : BitVec 5 := BitVec.ofNat 5 (min bytes.length 31)

/-- The hexadecimal digit of a nibble, in the case the driver uses (70_reset_and_hazards.md R352). -/
def hexDigit (c : Config.HexCase) (d : BitVec 4) : Char :=
  let digits := match c with
    | .upper => ['0', '1', '2', '3', '4', '5', '6', '7', '8', '9', 'A', 'B', 'C', 'D', 'E', 'F']
    | .lower => ['0', '1', '2', '3', '4', '5', '6', '7', '8', '9', 'a', 'b', 'c', 'd', 'e', 'f']
  digits.getD d.toNat '0'

/-- The 8 digits of a word, most significant nibble first (70_reset_and_hazards.md R352). -/
def hexWord (c : Config.HexCase) (w : Word) : List Char :=
  (List.range 8).map fun i => hexDigit c (slice w (4 * i) 4)

/-- The 16-character result of `enc` and `dec`: the digits of DOUT_HI, then those of DOUT_LO, in the case the platform's
driver uses (70_reset_and_hazards.md R352; log 8). -/
def hexResult (dout : BlockWords) : List Char :=
  hexWord Config.hexCase dout.hi ++ hexWord Config.hexCase dout.lo

/-- The calls of the source's interface (70_reset_and_hazards.md R353). -/
inductive DriverCall where
  /-- `DES(key)`, on instance 1 -/
  | des (key : List (BitVec 8))
  /-- `DES.enc(block)` -/
  | desEnc (block : List (BitVec 8))
  /-- `DES.dec(block)` -/
  | desDec (block : List (BitVec 8))
  /-- `TDEA(K1, K2?, K3?)`; `TDEA(K)` is the form with K2 and K3 omitted -/
  | tdea (k1 : List (BitVec 8)) (k2 k3 : Option (List (BitVec 8)))
  /-- `TDEA.enc(block)` -/
  | tdeaEnc (block : List (BitVec 8))
  /-- `TDEA.dec(block)` -/
  | tdeaDec (block : List (BitVec 8))
deriving DecidableEq, Repr

/-- What a driver call does next. -/
inductive DriverStep where
  /-- it performs these host statements -/
  | run (stmts : List HostStmt)
  /-- a constructor call has bound its keys -/
  | bound
  /-- an `enc` or `dec` call returns its hexadecimal string -/
  | text (chars : List Char)
  /-- the call ends in the source's PreconditionViolation: with the ERRCODE read where the engine rejected the command,
  with none where a check of the driver's own failed and no command was issued -/
  | violation (code : Option (BitVec 4))
deriving DecidableEq, Repr

/-- The driver's read of STATUS after a command that has no `wait`, from which it learns of a rejection
(70_reset_and_hazards.md R353). DESIGN CHOICE, log 14: the spec does not say when it reads STATUS. -/
def statusRead : List HostStmt := [rd .status]

/-- `DES(key)`, on instance 1 (70_reset_and_hazards.md R353). -/
def driverDes (key : List (BitVec 8)) : List HostStmt :=
  ldkey 0 (segment key 0) ++ [cmd (.desSetkey 1 (some (declaredLength key)))] ++ statusRead

/-- The statements of an `enc` or `dec` call up to the end of its `wait`, whose last read is a STATUS word
(70_reset_and_hazards.md R353). -/
def driverRun (block : List (BitVec 8)) (c : AsmCommand) : List HostStmt :=
  ldblk (segment block 0) ++ [cmd c, wait]

/-- `DES.enc(block)` (70_reset_and_hazards.md R353). -/
def driverDesEnc (block : List (BitVec 8)) : List HostStmt :=
  driverRun block (.desEnc 1 (some (declaredLength block)))

/-- `DES.dec(block)` (70_reset_and_hazards.md R353). -/
def driverDesDec (block : List (BitVec 8)) : List HostStmt :=
  driverRun block (.desDec 1 (some (declaredLength block)))

/-- `TDEA.enc(block)` (70_reset_and_hazards.md R353). -/
def driverTdeaEnc (block : List (BitVec 8)) : List HostStmt :=
  driverRun block (.tdeaEnc (some (declaredLength block)))

/-- `TDEA.dec(block)` (70_reset_and_hazards.md R353). -/
def driverTdeaDec (block : List (BitVec 8)) : List HostStmt :=
  driverRun block (.tdeaDec (some (declaredLength block)))

/-- `TDEA(K)`: the bytes of K go into KB, as many segments as they reach (70_reset_and_hazards.md R353; DEDUCED, log 9).
DESIGN CHOICE, log 13: segment 0 is loaded always, so of an empty K zeros go into KB0 and KB1; the spec does not say what is
loaded of a K that has no bytes. -/
def driverTdeaCombined (k : List (BitVec 8)) : List HostStmt :=
  ldkey 0 (segment k 0)
    ++ (if 8 < k.length then ldkey 1 (segment k 1) else [])
    ++ (if 16 < k.length then ldkey 2 (segment k 2) else [])
    ++ [cmd (.tdeaSetkey (declaredLength k))] ++ statusRead

/-- `TDEA(K1, K2?, K3?)`: where the lengths of two or three keys are not all 8, the driver reports a PreconditionViolation
itself, with no command. With K2 omitted a given K3 is ignored (70_reset_and_hazards.md R353, 90_conflicts.md C2,
92_eei_decisions.md D27; log 9). -/
def driverTdea (k1 : List (BitVec 8)) (k2 k3 : Option (List (BitVec 8))) : DriverStep :=
  match k2, k3 with
  | none, _ => .run (driverTdeaCombined k1)
  | some b, none =>
    if k1.length = 8 ∧ b.length = 8 then
      .run (ldkey 0 (segment k1 0) ++ ldkey 1 (segment b 0) ++ [cmd (.tdeaSetkey 16)] ++ statusRead)
    else .violation none
  | some b, some c =>
    if k1.length = 8 ∧ b.length = 8 ∧ c.length = 8 then
      .run (ldkey 0 (segment k1 0) ++ ldkey 1 (segment b 0) ++ ldkey 2 (segment c 0) ++ [cmd (.tdeaSetkey 24)] ++
        statusRead)
    else .violation none

/-- A call that issues statements acknowledges stale flags first, as 70_reset_and_hazards.md R343 lets a host do. An ERR = 1
read after the call's command is then that command's own rejection, and the ERRCODE its own. DESIGN CHOICE, log 14. -/
def DriverStep.acknowledged : DriverStep → DriverStep
  | .run stmts => .run (ackFlags :: stmts)
  | .bound => .bound
  | .text chars => .text chars
  | .violation code => .violation code

/-- The statements of a call's row of 70_reset_and_hazards.md R353, up to the answer of the engine. -/
def driverRow : DriverCall → DriverStep
  | .des key => .run (driverDes key)
  | .desEnc block => .run (driverDesEnc block)
  | .desDec block => .run (driverDesDec block)
  | .tdea k1 k2 k3 => driverTdea k1 k2 k3
  | .tdeaEnc block => .run (driverTdeaEnc block)
  | .tdeaDec block => .run (driverTdeaDec block)

/-- How a call begins (70_reset_and_hazards.md R353). -/
def driverBegin (c : DriverCall) : DriverStep := (driverRow c).acknowledged

/-- The ERRCODE a STATUS word reports, if it reports an error: what the driver turns into the source's
PreconditionViolation (70_reset_and_hazards.md R353). -/
def reportedViolation (status : Word) : Option (BitVec 4) :=
  if status.getLsbD 2 then some (status.extractLsb' 8 4) else none

/-- The word the host read last, given what its reads have returned, the latest first. -/
def lastWord (reads : List BusData) : Word :=
  match reads with
  | .word w :: _ => w
  | _ => 0

/-- How a call goes on once the engine has answered its command: a rejection, which the STATUS word read last shows (flags of
earlier errors are acknowledged when the call begins), ends it in a PreconditionViolation with the ERRCODE read; otherwise a constructor has bound its keys and an `enc` or `dec` reads the result
(70_reset_and_hazards.md R353). -/
def driverAnswered (c : DriverCall) (reads : List BusData) : DriverStep :=
  match reportedViolation (lastWord reads) with
  | some code => .violation (some code)
  | none =>
    match c with
    | .des _ => .bound
    | .tdea _ _ _ => .bound
    | .desEnc _ => .run rdout
    | .desDec _ => .run rdout
    | .tdeaEnc _ => .run rdout
    | .tdeaDec _ => .run rdout

/-- How an `enc` or `dec` call ends once it has read the result, DOUT_LO last (70_reset_and_hazards.md R352, R353). -/
def driverReturn (reads : List BusData) : DriverStep :=
  .text (hexResult { hi := lastWord reads.tail, lo := lastWord reads })

end Sys2Proof.Machine
end

