-- ==== Sys2Proof/Safety.lean ====
section
/-! DEFINITION. What counts as a sound state and an undisturbed run: the invariants of 10_state.md R53, what a run in progress still has to do, and the runs that no CLEAR and no reset abandons (43_des.md R217, 44_tdea.md R245). -/

namespace Sys2Proof.Machine

/-- The invariants of 10_state.md R53, numbered as there. -/
structure State.Inv (s : State) : Prop where
  /-- (1) BUSY = 0 if and only if PASS = 0 -/
  idleIffPass : s.busy = false ↔ s.seq.pass = 0
  /-- (2) BUSY = 0 implies RND = 0 -/
  idleRnd : s.busy = false → s.seq.rnd = 0
  /-- (3) BUSY = 1 implies CUROP in 3, 4, 5, 6 -/
  busyOp : s.busy = true → s.seq.curop = 3 ∨ s.seq.curop = 4 ∨ s.seq.curop = 5 ∨ s.seq.curop = 6
  /-- (4) a single-DES run is in pass 1, on a bound instance -/
  desRun : s.busy = true → s.seq.curop = 3 ∨ s.seq.curop = 4 →
    s.seq.pass = 1 ∧ s.seq.curinst ≠ 0 ∧ s.bound s.seq.curinst = true
  /-- (5) a TDEA run is in pass 1, 2 or 3, with every instance bound -/
  tdeaRun : s.busy = true → s.seq.curop = 5 ∨ s.seq.curop = 6 →
    s.seq.pass ≠ 0 ∧ s.seq.curinst = 0 ∧ s.allBound = true
  /-- (6) ERR = 0 implies ERRCODE = 0 and ERRINFO = 0 -/
  noError : s.error.err = false → s.error.code = 0 ∧ s.error.info = 0
  /-- (7) an unbound instance holds no key -/
  unbound1 : s.inst1.kv = false → s.inst1.cd0 = 0
  unbound2 : s.inst2.kv = false → s.inst2.cd0 = 0
  unbound3 : s.inst3.kv = false → s.inst3.cd0 = 0

/-- ERRCODE is one of the codes of 60_exceptions.md R301 that are produced, and is 0 exactly when no error is recorded
(10_state.md R41; 93_implementation_defined.md part 2, codes 8..15). -/
structure State.ErrorCodeInv (s : State) : Prop where
  codeDefined : s.error.code ≤ 7
  codeIffErr : s.error.code = 0 ↔ s.error.err = false

/-- A command word that 30_encoding.md R105 reserves, by its five conditions in their order. -/
def reservedWord (w : Word) : Bool :=
  w.extractLsb' 13 19 != 0
    || w.extractLsb' 6 2 != 0
    || 8 ≤ (w.extractLsb' 0 4).toNat
    || (w.extractLsb' 4 2 != 0 && [0, 2, 5, 6, 7].contains (w.extractLsb' 0 4).toNat)
    || (w.extractLsb' 8 5 != 0 && [0, 7].contains (w.extractLsb' 0 4).toNat)

/-- The codes besides BADCMD that a command can raise (60_exceptions.md R312). -/
def commandErrors : Instr → List ErrCode
  | .nop => [.busy]
  | .desSetkey _ _ => [.busy, .badInst, .keyLen]
  | .tdeaSetkey _ => [.busy, .keyLen]
  | .desEnc _ _ => [.busy, .badInst, .blockLen, .noKey]
  | .desDec _ _ => [.busy, .badInst, .blockLen, .noKey]
  | .tdeaEnc _ => [.busy, .blockLen, .noKey]
  | .tdeaDec _ => [.busy, .blockLen, .noKey]
  | .clear => []

/-- The next transition is an engine step that is enabled (43_des.md R213). -/
def State.engineStepNext (s : State) : Bool := (nextTurn s).1 == .engine && s.busy

/-- The next transition is a reset (70_reset_and_hazards.md R341). -/
def State.resetNext (s : State) : Bool := (nextTurn s).1 == .reset

/-- The next transition is the host's submission of CLEAR (45_control.md R261). -/
def State.clearNext (s : State) : Bool :=
  (nextTurn s).1 == .host && s.host.head? == some (.write Reg.cmd.offset (.word (encode .clear)))

/-- The next transition is neither CLEAR nor reset: it abandons no run (43_des.md R217, 45_control.md R262). -/
def State.undisturbedNext (s : State) : Bool := !s.resetNext && !s.clearNext

/-- The first `n` steps contain no CLEAR and no reset (the premise of 43_des.md R217 and 44_tdea.md R245). -/
def undisturbed : Nat → State → Bool
  | 0, _ => true
  | n + 1, s =>
    s.undisturbedNext &&
      match step s with
      | .next t => undisturbed n t
      | _ => true

/-- How many of the first `n` steps are engine steps. -/
def engineSteps : Nat → State → Nat
  | 0, _ => 0
  | n + 1, s =>
    s.engineStepNext.toNat +
      match step s with
      | .next t => engineSteps n t
      | _ => 0

/-- How many engine steps the run in progress still takes (70_reset_and_hazards.md R351). -/
def remainingSteps (s : State) : Nat :=
  if s.busy then 16 * (npass s.seq.curop - s.seq.pass.toNat) + (16 - s.seq.rnd.toNat) else 0

/-- The passes of the current command with the CD0 of their instances (43_des.md R210). -/
def keyedPasses (s : State) : List (BitVec 56 × Dir) :=
  (passes s.seq.curop s.seq.curinst).filterMap fun p => (s.slot? p.1).map fun k => (k.cd0, p.2)

/-- The block the run in progress will leave in DOUT: what is left of the current pass, then each later pass whole
(43_des.md R211, R213; 44_tdea.md R240). -/
def runResult (s : State) : BitVec 64 :=
  match currentPass s with
  | some (cd0, dir) =>
    ((keyedPasses s).drop s.seq.pass.toNat).foldl (fun x p => des p.2 p.1 x)
      (joinHalves (desRounds cd0 ((roundOrder dir).drop s.seq.rnd.toNat) (s.l, s.r)))
  | none => 0

/-- The C and D halves of encryption's running realisation just before round r's PC2: from C0, D0, rotated left by SHIFTS of
each round up to r (41_key_schedule.md R175). -/
def runningLeft (v : BitVec 28) (r : Nat) : BitVec 28 := (shifts.take (r + 1)).foldl rotl v

/-- Right rotation of a 28-bit half (41_key_schedule.md R175). -/
def rotr (v : BitVec 28) (n : Nat) : BitVec 28 := v.rotateRight n

/-- The C and D halves of decryption's running realisation for round r, counted down from 15: from C0, D0, rotated right by
SHIFTS of each round already done, 15 down to r + 1 (41_key_schedule.md R175). -/
def runningRight (v : BitVec 28) (r : Nat) : BitVec 28 := (shifts.drop (r + 1)).reverse.foldl rotr v

end Sys2Proof.Machine
end

