-- ==== Sys2Proof/Certificates/Slice0/Obligations.lean ====
section
/-! DEFINITION. The statements for the provers. Where a statement says that a command, an access or a step answers `{ s with … }`, the record update says its frame too: every field not named in it is unchanged. -/

open Sys2Proof Sys2Proof.Machine

/-! ## Encoding -/

/-- 30_encoding.md R107: the formula of the canonical encodings and the words a conforming host writes. -/
def Obligations.CanonicalWordsAreAsListed : Prop :=
  (∀ i : Instr, encode i =
    i.op.setWidth 32 ||| i.instField.setWidth 32 <<< 4 ||| i.lenField.setWidth 32 <<< 8) ∧
  encode .nop = 0x00000000 ∧
  encode (.desSetkey 1 8) = 0x00000811 ∧ encode (.desSetkey 2 8) = 0x00000821 ∧ encode (.desSetkey 3 8) = 0x00000831 ∧
  encode (.tdeaSetkey 8) = 0x00000802 ∧ encode (.tdeaSetkey 16) = 0x00001002 ∧ encode (.tdeaSetkey 24) = 0x00001802 ∧
  encode (.desEnc 1 8) = 0x00000813 ∧ encode (.desEnc 2 8) = 0x00000823 ∧ encode (.desEnc 3 8) = 0x00000833 ∧
  encode (.desDec 1 8) = 0x00000814 ∧ encode (.desDec 2 8) = 0x00000824 ∧ encode (.desDec 3 8) = 0x00000834 ∧
  encode (.tdeaEnc 8) = 0x00000805 ∧ encode (.tdeaDec 8) = 0x00000806 ∧
  encode .clear = 0x00000007

/-- One word of each command, written out from the fields of 30_encoding.md R101 and R102, decodes to that command. -/
def Obligations.WordsOfTheOpcodeMapDecode : Prop :=
  decode 0b0000000000000000000_00000_00_00_0000 = .ok .nop ∧
  decode 0b0000000000000000000_01000_00_11_0001 = .ok (.desSetkey 3 8) ∧
  decode 0b0000000000000000000_11000_00_00_0010 = .ok (.tdeaSetkey 24) ∧
  decode 0b0000000000000000000_01000_00_01_0011 = .ok (.desEnc 1 8) ∧
  decode 0b0000000000000000000_01000_00_10_0100 = .ok (.desDec 2 8) ∧
  decode 0b0000000000000000000_01000_00_00_0101 = .ok (.tdeaEnc 8) ∧
  decode 0b0000000000000000000_01000_00_00_0110 = .ok (.tdeaDec 8) ∧
  decode 0b0000000000000000000_00000_00_00_0111 = .ok .clear

/-- 30_encoding.md R105: a reserved word is rejected with BADCMD and has no other effect, and no other word is: each of
those is one of the eight commands, so no encoding is a hint or a custom one. -/
def Obligations.ReservedWordsAreRejected : Prop :=
  ∀ (w : Word) (s : State),
    (reservedWord w = true → submitCommand w s = .next (raise .badCmd w s)) ∧
    (reservedWord w = false → ∃ i, decode w = .ok i)

/-- 30_encoding.md R106, R107: decoding an encoded command gives it back, for every command and every operand value. -/
def Obligations.DecodeOfEncodeIsTheCommand : Prop :=
  ∀ i : Instr, decode (encode i) = .ok i

/-- 30_encoding.md R106, R107: a word that decodes is the word of the command it decodes to. -/
def Obligations.EncodeOfDecodedIsTheWord : Prop :=
  ∀ (w : Word) (i : Instr), decode w = .ok i → encode i = w

/-! ## Steps and turns -/

/-- A step runs the decoded command: where the host's next transaction, made in this transition, writes to CMD a word that
decodes to i, the step is exec of i on the state with that transaction, and the turn where one was fixed, taken off. With no
turn fixed and the engine idle it is the host's turn, by the model's choice of log 2. -/
def Obligations.StepRunsTheSubmittedCommand : Prop :=
  ∀ (s : State) (w : Word) (i : Instr) (rest : List HostStmt),
    s.host = .write 0x08 (.word w) :: rest → decode w = .ok i →
    (∀ turns, s.sched = .host :: turns → step s = exec i { s with host := rest, sched := turns }) ∧
    (s.sched = [] → s.busy = false → step s = exec i { s with host := rest })

/-- A word that does not decode is rejected with BADCMD in the transition that writes it (60_exceptions.md R303). -/
def Obligations.StepRejectsAnUndecodedWord : Prop :=
  ∀ (s : State) (w : Word) (code : ErrCode) (rest : List HostStmt) (turns : List Turn),
    s.host = .write 0x08 (.word w) :: rest → s.sched = .host :: turns → decode w = .bad code →
    step s = .next (raise .badCmd w { s with host := rest, sched := turns })

/-- Whose transition a step is: an engine's turn on a busy engine is an engine step (00_scope.md R20, 43_des.md R213). The
other clauses are the model's choice of log 2: a turn given to an idle engine or to a host with nothing to do passes, and with
no turn fixed the engine moves while it is busy and a machine with nothing to do stays as it is. -/
def Obligations.StepIsTheScheduledAgents : Prop :=
  ∀ (s : State) (turns : List Turn),
    (s.sched = .engine :: turns → s.busy = true → step s = engineStep { s with sched := turns }) ∧
    (s.sched = .engine :: turns → s.busy = false → step s = .next { s with sched := turns }) ∧
    (s.sched = .host :: turns → s.host = [] → step s = .next { s with sched := turns }) ∧
    (s.sched = [] → s.busy = true → step s = engineStep s) ∧
    (s.sched = [] → s.busy = false → s.host = [] → step s = .next s)

/-- A host turn performs the next transaction of the host's program (20_memory.md R71, 30_encoding.md R109): one read, one
write, or one read of a poll, which stays until the word read, masked, is the value polled for. -/
def Obligations.HostTurnMakesOneTransaction : Prop :=
  ∀ (s : State) (turns : List Turn) (rest : List HostStmt) (off : Offset), s.sched = .host :: turns →
    (∀ size, s.host = .read off size :: rest →
      step s = .next (memRead off size { s with host := rest, sched := turns })) ∧
    (∀ data, s.host = .write off data :: rest →
      step s = memWrite off data { s with host := rest, sched := turns }) ∧
    (∀ mask val w, s.host = .poll off mask val :: rest → readData off .word s = .word w →
      step s = .next (memRead off .word
        { s with host := if w &&& mask = val then rest else s.host, sched := turns }))

/-! ## Reset -/

/-- 70_reset_and_hazards.md R340: reset sets every piece of state to the value listed, in whatever state it is applied, and
the state right after reset has those values. The fields that are the model's own (logs 1 to 4) stay. -/
def Obligations.ResetSetsEveryPieceOfState : Prop :=
  ∀ (s : State) (turns : List Turn), s.sched = .reset :: turns →
    ∃ t, step s = .next t ∧
      t = { State.reset with host := s.host, sched := turns, reads := s.reads, freeCount := s.freeCount } ∧
      t.ctrl.ieDone = false ∧ t.ctrl.ieErr = false ∧
      t.busy = false ∧ t.done = false ∧ t.error.err = false ∧ t.error.eovf = false ∧
      t.error.code = 0 ∧ t.error.info = 0x00000000 ∧
      t.kb.kb0 = 0 ∧ t.kb.kb1 = 0 ∧ t.kb.kb2 = 0 ∧ t.kb.kb3 = 0 ∧ t.kb.kb4 = 0 ∧ t.kb.kb5 = 0 ∧
      t.din.hi = 0 ∧ t.din.lo = 0 ∧ t.dout.hi = 0 ∧ t.dout.lo = 0 ∧
      t.rksel.ridx = 0 ∧ t.rksel.sel = 0 ∧
      t.inst1.kv = false ∧ t.inst2.kv = false ∧ t.inst3.kv = false ∧
      t.inst1.cd0 = 0 ∧ t.inst2.cd0 = 0 ∧ t.inst3.cd0 = 0 ∧
      t.seq.curop = 0 ∧ t.seq.curinst = 0 ∧ t.seq.pass = 0 ∧ t.seq.rnd = 0 ∧
      t.l = 0 ∧ t.r = 0 ∧ irq t = false ∧
      Reg.value t .id = 0x44455301 ∧ (∀ r : Reg, r ≠ .id → Reg.value t r = 0)

/-! ## Commands accepted -/

/-- 45_control.md R260: NOP sets DONE and CUROP and changes nothing else. -/
def Obligations.NopCompletesAtOnce : Prop :=
  ∀ s : State, s.busy = false →
    exec .nop s = .next { s with done := true, seq := { s.seq with curop := 0x0 } }

/-- 41_key_schedule.md R176: DES_SETKEY binds key-buffer bytes 0..7 to the instance it names, leaves the other two, and
completes at once. -/
def Obligations.DesSetkeyBindsTheNamedInstance : Prop :=
  ∀ s : State, s.busy = false →
    exec (.desSetkey 1 8) s = .next { s with
      inst1 := { cd0 := permute 56 pc1Table (s.kb.kb0 ++ s.kb.kb1), kv := true }
      done := true, seq := { s.seq with curop := 0x1 } } ∧
    exec (.desSetkey 2 8) s = .next { s with
      inst2 := { cd0 := permute 56 pc1Table (s.kb.kb0 ++ s.kb.kb1), kv := true }
      done := true, seq := { s.seq with curop := 0x1 } } ∧
    exec (.desSetkey 3 8) s = .next { s with
      inst3 := { cd0 := permute 56 pc1Table (s.kb.kb0 ++ s.kb.kb1), kv := true }
      done := true, seq := { s.seq with curop := 0x1 } }

/-- 41_key_schedule.md R177, R178: TDEA_SETKEY binds the three instances in one transition; LEN 24 takes three keys, LEN 16
sets K3 = K1, LEN 8 sets K2 = K3 = K1. -/
def Obligations.TdeaSetkeyBindsTheThreeInstances : Prop :=
  ∀ s : State, s.busy = false →
    exec (.tdeaSetkey 24) s = .next { s with
      inst1 := { cd0 := permute 56 pc1Table (s.kb.kb0 ++ s.kb.kb1), kv := true }
      inst2 := { cd0 := permute 56 pc1Table (s.kb.kb2 ++ s.kb.kb3), kv := true }
      inst3 := { cd0 := permute 56 pc1Table (s.kb.kb4 ++ s.kb.kb5), kv := true }
      done := true, seq := { s.seq with curop := 0x2 } } ∧
    exec (.tdeaSetkey 16) s = .next { s with
      inst1 := { cd0 := permute 56 pc1Table (s.kb.kb0 ++ s.kb.kb1), kv := true }
      inst2 := { cd0 := permute 56 pc1Table (s.kb.kb2 ++ s.kb.kb3), kv := true }
      inst3 := { cd0 := permute 56 pc1Table (s.kb.kb0 ++ s.kb.kb1), kv := true }
      done := true, seq := { s.seq with curop := 0x2 } } ∧
    exec (.tdeaSetkey 8) s = .next { s with
      inst1 := { cd0 := permute 56 pc1Table (s.kb.kb0 ++ s.kb.kb1), kv := true }
      inst2 := { cd0 := permute 56 pc1Table (s.kb.kb0 ++ s.kb.kb1), kv := true }
      inst3 := { cd0 := permute 56 pc1Table (s.kb.kb0 ++ s.kb.kb1), kv := true }
      done := true, seq := { s.seq with curop := 0x2 } }

/-- 43_des.md R212, R215, R216: DES_ENC and DES_DEC on a bound instance start a run on the block DIN as it stands. -/
def Obligations.DesCommandsStartARun : Prop :=
  ∀ (s : State) (inst : BitVec 2) (k : KeySlot), s.busy = false → s.slot? inst = some k → k.kv = true →
    exec (.desEnc inst 8) s = .next { s with
      busy := true, done := false
      seq := { curop := 0x3, curinst := inst, pass := 1, rnd := 0 }
      l := slice (permute 64 ipTable (s.din.hi ++ s.din.lo)) 0 32
      r := slice (permute 64 ipTable (s.din.hi ++ s.din.lo)) 32 32 } ∧
    exec (.desDec inst 8) s = .next { s with
      busy := true, done := false
      seq := { curop := 0x4, curinst := inst, pass := 1, rnd := 0 }
      l := slice (permute 64 ipTable (s.din.hi ++ s.din.lo)) 0 32
      r := slice (permute 64 ipTable (s.din.hi ++ s.din.lo)) 32 32 }

/-- 43_des.md R212, 44_tdea.md R241 to R243: TDEA_ENC and TDEA_DEC with every instance bound start a run on the block DIN. -/
def Obligations.TdeaCommandsStartARun : Prop :=
  ∀ s : State, s.busy = false → s.inst1.kv = true → s.inst2.kv = true → s.inst3.kv = true →
    exec (.tdeaEnc 8) s = .next { s with
      busy := true, done := false
      seq := { curop := 0x5, curinst := 0, pass := 1, rnd := 0 }
      l := slice (permute 64 ipTable (s.din.hi ++ s.din.lo)) 0 32
      r := slice (permute 64 ipTable (s.din.hi ++ s.din.lo)) 32 32 } ∧
    exec (.tdeaDec 8) s = .next { s with
      busy := true, done := false
      seq := { curop := 0x6, curinst := 0, pass := 1, rnd := 0 }
      l := slice (permute 64 ipTable (s.din.hi ++ s.din.lo)) 0 32
      r := slice (permute 64 ipTable (s.din.hi ++ s.din.lo)) 32 32 }

/-- 45_control.md R261, R262: CLEAR, busy or idle, abandons any run and erases keys, key buffer, half-blocks and result; it
keeps CTRL, DIN, RKSEL and the error record. -/
def Obligations.ClearErasesKeysAndResult : Prop :=
  ∀ s : State,
    exec .clear s = .next { s with
      busy := false, done := true
      kb := { kb0 := 0, kb1 := 0, kb2 := 0, kb3 := 0, kb4 := 0, kb5 := 0 }
      dout := { hi := 0, lo := 0 }
      inst1 := { cd0 := 0, kv := false }, inst2 := { cd0 := 0, kv := false }, inst3 := { cd0 := 0, kv := false }
      seq := { curop := 0x7, curinst := 0, pass := 0, rnd := 0 }
      l := 0, r := 0 }

/-! ## Commands rejected -/

/-- 60_exceptions.md R302, R303: while busy, every command but CLEAR is rejected with BUSY, whatever its operands, and the
running command is not disturbed. -/
def Obligations.BusyRejectsEveryCommandButClear : Prop :=
  ∀ (i : Instr) (s : State), s.busy = true → i ≠ .clear →
    exec i s = .next (raise .busy (encode i) s) ∧
    raise .busy (encode i) s = { s with error := (raise .busy (encode i) s).error }

/-- 60_exceptions.md R301, R303: on an idle engine, INST = 0 is BADINST, whatever LEN is. -/
def Obligations.InstanceZeroIsRejected : Prop :=
  ∀ (s : State) (len : BitVec 5), s.busy = false →
    exec (.desSetkey 0 len) s = .next (raise .badInst (encode (.desSetkey 0 len)) s) ∧
    exec (.desEnc 0 len) s = .next (raise .badInst (encode (.desEnc 0 len)) s) ∧
    exec (.desDec 0 len) s = .next (raise .badInst (encode (.desDec 0 len)) s)

/-- 60_exceptions.md R301, R303: on an idle engine a wrong length is KEYLEN or BLOCKLEN, before any look at the keys. -/
def Obligations.WrongLengthIsRejected : Prop :=
  ∀ (s : State) (inst : BitVec 2) (len : BitVec 5), s.busy = false → len ≠ 8 →
    (inst ≠ 0 →
      exec (.desSetkey inst len) s = .next (raise .keyLen (encode (.desSetkey inst len)) s) ∧
      exec (.desEnc inst len) s = .next (raise .blockLen (encode (.desEnc inst len)) s) ∧
      exec (.desDec inst len) s = .next (raise .blockLen (encode (.desDec inst len)) s)) ∧
    (len ≠ 16 → len ≠ 24 → exec (.tdeaSetkey len) s = .next (raise .keyLen (encode (.tdeaSetkey len)) s)) ∧
    exec (.tdeaEnc len) s = .next (raise .blockLen (encode (.tdeaEnc len)) s) ∧
    exec (.tdeaDec len) s = .next (raise .blockLen (encode (.tdeaDec len)) s)

/-- 60_exceptions.md R301, R303: on an idle engine, a command on an unbound instance is NOKEY; the TDEA commands need all
three. -/
def Obligations.UnboundInstanceIsRejected : Prop :=
  ∀ s : State, s.busy = false →
    (∀ (inst : BitVec 2) (k : KeySlot), s.slot? inst = some k → k.kv = false →
      exec (.desEnc inst 8) s = .next (raise .noKey (encode (.desEnc inst 8)) s) ∧
      exec (.desDec inst 8) s = .next (raise .noKey (encode (.desDec inst 8)) s)) ∧
    (s.inst1.kv = false ∨ s.inst2.kv = false ∨ s.inst3.kv = false →
      exec (.tdeaEnc 8) s = .next (raise .noKey (encode (.tdeaEnc 8)) s) ∧
      exec (.tdeaDec 8) s = .next (raise .noKey (encode (.tdeaDec 8)) s))

/-- 60_exceptions.md R312, 10_state.md R42: a command ends in one of the errors listed for it, or is accepted: then the error
record stays and CUROP is its OP. -/
def Obligations.CommandsRaiseOnlyTheirOwnErrors : Prop :=
  ∀ (i : Instr) (s : State),
    (∃ code ∈ commandErrors i, exec i s = .next (raise code (encode i) s)) ∨
    (∃ t, exec i s = .next t ∧ t.error = s.error ∧ t.seq.curop = i.op)

/-! ## Errors: raising, returning, illegal accesses -/

/-- 60_exceptions.md R304: the first error is recorded in full, a later one only sets EOVF; nothing else changes. -/
def Obligations.RaiseRecordsTheFirstError : Prop :=
  ∀ (code : ErrCode) (info : Word) (s : State),
    (s.error.err = false →
      raise code info s = { s with error := { s.error with err := true, code := code.toBits, info := info } }) ∧
    (s.error.err = true → raise code info s = { s with error := { s.error with eovf := true } }) ∧
    ErrCode.toBits .badCmd = 1 ∧ ErrCode.toBits .busy = 2 ∧ ErrCode.toBits .badInst = 3 ∧ ErrCode.toBits .keyLen = 4 ∧
    ErrCode.toBits .blockLen = 5 ∧ ErrCode.toBits .noKey = 6 ∧ ErrCode.toBits .badAccess = 7

/-- 60_exceptions.md R308: a STATUS write clears DONE, the error record and EOVF by bits 1, 2 and 3, and nothing else; it
lowers the ERR term of irq with ERR and re-arms the record. -/
def Obligations.StatusWriteClearsTheNamedFlags : Prop :=
  ∀ (w : Word) (s : State),
    memWrite 0x0C (.word w) s = .next { s with
      done := if w.getLsbD 1 then false else s.done
      error :=
        { err := if w.getLsbD 2 then false else s.error.err
          eovf := if w.getLsbD 3 then false else s.error.eovf
          code := if w.getLsbD 2 then 0 else s.error.code
          info := if w.getLsbD 2 then 0 else s.error.info } } ∧
    (w.getLsbD 2 = true → irq (statusW1c w s) = (s.ctrl.ieDone && (statusW1c w s).done)) ∧
    (∀ code info, w.getLsbD 2 = true →
      (raise code info (statusW1c w s)).error =
        { err := true, eovf := (statusW1c w s).error.eovf, code := code.toBits, info := info })

/-- 60_exceptions.md R311, 20_memory.md R72, R75: an access of another size than 4 bytes, at an offset that is no multiple
of 4 or has no register, or a write to a read-only register, raises BADACCESS with its information word and does nothing
else; an illegal read returns 0. Reads of write-only registers and writes to STATUS are legal. -/
def Obligations.IllegalAccessesAreRecorded : Prop :=
  (∀ (off : Offset) (size : AccessSize) (s : State),
    (size ≠ .word ∨ off.toNat % 4 ≠ 0 ∨ (∀ r : Reg, r.offset ≠ off) →
      memRead off size s =
        { raise .badAccess (accessInfo off size false) s with reads := BusData.zero size :: s.reads })) ∧
  (∀ (off : Offset) (data : BusData) (s : State),
    (data.size ≠ .word ∨ off.toNat % 4 ≠ 0 ∨ (∀ r : Reg, r.offset ≠ off) ∨
        off = 0x00 ∨ off = 0x10 ∨ off = 0x48 ∨ off = 0x4C ∨ off = 0x54 ∨ off = 0x58 →
      memWrite off data s = .next (raise .badAccess (accessInfo off data.size true) s))) ∧
  (∀ (off : Offset) (size : AccessSize) (write : Bool),
    (accessInfo off size write).toNat =
      ((size.bytes - 1) % 16) * 4096 + (if write then 256 else 0) + off.toNat) ∧
  (∀ (r : Reg) (s : State), r.access = .wo → (memRead r.offset .word s).error = s.error) ∧
  (∀ (w : Word) (s : State), memWrite 0x0C (.word w) s = .next (statusW1c w s))

/-- 60_exceptions.md R305: a rejected command and an illegal access change nothing but the error record (and what the host
remembers of its read); a submission is either rejected or accepted, with the error record left alone. -/
def Obligations.RejectionsHaveNoPartialEffect : Prop :=
  (∀ (code : ErrCode) (info : Word) (s : State), ∃ e, raise code info s = { s with error := e }) ∧
  (∀ (w : Word) (s : State),
    (∃ code, submitCommand w s = .next (raise code w s)) ∨
    (∃ i t, decode w = .ok i ∧ submitCommand w s = .next t ∧ t.error = s.error ∧ t.seq.curop = i.op)) ∧
  (∀ (off : Offset) (size : AccessSize) (s : State), legalRead off size = none →
    ∃ e d, memRead off size s = { s with error := e, reads := d :: s.reads }) ∧
  (∀ (off : Offset) (data : BusData) (s : State), legalWrite off data.size = none →
    ∃ e, memWrite off data s = .next { s with error := e })

/-! ## Registers -/

/-- 20_memory.md R73: a legal read returns the register's value and changes no state of the engine. -/
def Obligations.LegalReadsChangeNothing : Prop :=
  ∀ (r : Reg) (s : State),
    readData r.offset .word s = .word (r.value s) ∧
    memRead r.offset .word s = { s with reads := .word (r.value s) :: s.reads }

/-- 10_state.md R33, R35, R43, R44, R46, R47: what reads of ID, CMD, ERRINFO, KB, DIN and DOUT return. -/
def Obligations.RegistersReadAsListed : Prop :=
  ∀ s : State,
    readData 0x00 .word s = .word 0x44455301 ∧ readData 0x08 .word s = .word 0 ∧
    readData 0x10 .word s = .word s.error.info ∧
    readData 0x20 .word s = .word 0 ∧ readData 0x24 .word s = .word 0 ∧ readData 0x28 .word s = .word 0 ∧
    readData 0x2C .word s = .word 0 ∧ readData 0x30 .word s = .word 0 ∧ readData 0x34 .word s = .word 0 ∧
    readData 0x40 .word s = .word s.din.hi ∧ readData 0x44 .word s = .word s.din.lo ∧
    readData 0x48 .word s = .word s.dout.hi ∧ readData 0x4C .word s = .word s.dout.lo

/-- 10_state.md R36: the fields of the STATUS word, bit by bit. -/
def Obligations.StatusFieldsAreAsListed : Prop :=
  ∀ s : State, ∃ w : Word, readData 0x0C .word s = .word w ∧
    w.getLsbD 0 = s.busy ∧ w.getLsbD 1 = s.done ∧ w.getLsbD 2 = s.error.err ∧ w.getLsbD 3 = s.error.eovf ∧
    w.getLsbD 4 = s.inst1.kv ∧ w.getLsbD 5 = s.inst2.kv ∧ w.getLsbD 6 = s.inst3.kv ∧ w.getLsbD 7 = false ∧
    w.extractLsb' 8 4 = s.error.code ∧ w.extractLsb' 12 4 = s.seq.curop ∧ w.extractLsb' 16 2 = s.seq.pass ∧
    w.extractLsb' 18 2 = 0 ∧ w.extractLsb' 20 4 = s.seq.rnd ∧ w.extractLsb' 24 8 = 0

/-- 10_state.md R34: a CTRL write sets the two enables and nothing else, busy or not, and irq follows them at once; a read
shows them, reserved bits 0; both are 0 at reset. -/
def Obligations.CtrlHoldsTheTwoEnables : Prop :=
  ∀ (w : Word) (s : State),
    memWrite 0x04 (.word w) s = .next { s with ctrl := { ieDone := w.getLsbD 0, ieErr := w.getLsbD 1 } } ∧
    irq { s with ctrl := { ieDone := w.getLsbD 0, ieErr := w.getLsbD 1 } } =
      (w.getLsbD 0 && s.done || w.getLsbD 1 && s.error.err) ∧
    readData 0x04 .word s = .word ((BitVec.ofBool s.ctrl.ieErr).setWidth 32 <<< 1 ||| (BitVec.ofBool s.ctrl.ieDone).setWidth 32) ∧
    State.reset.ctrl = { ieDone := false, ieErr := false }

/-- 10_state.md R48: an RKSEL write sets RIDX and SEL and nothing else; a read shows them, reserved bits 0; SEL 0 selects no
instance; both are 0 at reset. -/
def Obligations.RkselHoldsIndexAndInstance : Prop :=
  ∀ (w : Word) (s : State),
    memWrite 0x50 (.word w) s = .next { s with rksel := { ridx := w.extractLsb' 0 4, sel := w.extractLsb' 4 2 } } ∧
    readData 0x50 .word s = .word (s.rksel.sel.setWidth 32 <<< 4 ||| s.rksel.ridx.setWidth 32) ∧
    (s.rksel.sel = 0 → s.slot? s.rksel.sel = none) ∧ State.reset.rksel = { ridx := 0, sel := 0 }

/-- 20_memory.md R74, 10_state.md R44, R46: a write of a word to KBj, DIN_HI or DIN_LO changes that register only; a write to
CMD submits the word. -/
def Obligations.DataRegisterWritesChangeThatRegister : Prop :=
  ∀ (w : Word) (s : State),
    memWrite 0x20 (.word w) s = .next { s with kb := { s.kb with kb0 := w } } ∧
    memWrite 0x24 (.word w) s = .next { s with kb := { s.kb with kb1 := w } } ∧
    memWrite 0x28 (.word w) s = .next { s with kb := { s.kb with kb2 := w } } ∧
    memWrite 0x2C (.word w) s = .next { s with kb := { s.kb with kb3 := w } } ∧
    memWrite 0x30 (.word w) s = .next { s with kb := { s.kb with kb4 := w } } ∧
    memWrite 0x34 (.word w) s = .next { s with kb := { s.kb with kb5 := w } } ∧
    memWrite 0x40 (.word w) s = .next { s with din := { s.din with hi := w } } ∧
    memWrite 0x44 (.word w) s = .next { s with din := { s.din with lo := w } } ∧
    memWrite 0x08 (.word w) s = submitCommand w s

/-- 10_state.md R49: the round-key readout shows RoundKey(INST[SEL].CD0, RIDX) of a bound instance, 16 bits in RK_HI and 32
in RK_LO, and otherwise 0; neither read is an error or changes the engine's state. -/
def Obligations.RoundKeyReadoutShowsTheSelectedKey : Prop :=
  ∀ s : State,
    (∀ k, s.slot? s.rksel.sel = some k → k.kv = true →
      readData 0x54 .word s = .word (BitVec.ofNat 32 (slice (roundKey k.cd0 s.rksel.ridx) 0 16).toNat) ∧
      readData 0x58 .word s = .word (slice (roundKey k.cd0 s.rksel.ridx) 16 32)) ∧
    ((∀ k, s.slot? s.rksel.sel = some k → k.kv = false) →
      readData 0x54 .word s = .word 0 ∧ readData 0x58 .word s = .word 0) ∧
    (s.slot? 0 = none ∧ s.slot? 1 = some s.inst1 ∧ s.slot? 2 = some s.inst2 ∧ s.slot? 3 = some s.inst3) ∧
    memRead 0x54 .word s = { s with reads := readData 0x54 .word s :: s.reads } ∧
    memRead 0x58 .word s = { s with reads := readData 0x58 .word s :: s.reads }

/-- 10_state.md R51: no bus access reads L or R, and irq does not show them. -/
def Obligations.HalfBlocksAreUnreadable : Prop :=
  ∀ (off : Offset) (size : AccessSize) (s : State) (l r : BitVec 32),
    readData off size { s with l := l, r := r } = readData off size s ∧ irq { s with l := l, r := r } = irq s

/-- 10_state.md R54, 43_des.md R214, 60_exceptions.md R315: the irq line, its masking without clearing, and its rise in the
transition that completes a run. -/
def Obligations.IrqFollowsDoneAndErr : Prop :=
  ∀ s : State,
    irq s = (s.ctrl.ieDone && s.done || s.ctrl.ieErr && s.error.err) ∧
    (∃ t, memWrite 0x04 (.word 0) s = .next t ∧ irq t = false ∧ t.done = s.done ∧ t.error = s.error) ∧
    (∀ t, engineStep s = .next t → s.busy = true → t.busy = false → s.ctrl.ieDone = true → irq t = true)

/-- 20_memory.md R70, 92_eei_decisions.md D34: the host address ENGINE_BASE + off reaches offset off, for every off in
0x00..0xFF and every ENGINE_BASE. The second clause, that no other host address reaches the engine, is the model's reading
(DEDUCED, log 6): the spec does not say it in words. -/
def Obligations.EngineBasePlacesTheOffsets : Prop :=
  (∀ off : Offset, offsetOfAddress (Config.engineBase + off.toNat) = some off) ∧
  (∀ (addr : Nat) (off : Offset), offsetOfAddress addr = some off → addr = Config.engineBase + off.toNat)

/-! ## Tables, key schedule, cipher -/

/-- 40_tables.md R133: IPinv is the inverse of IP, on blocks and in table terms. -/
def Obligations.FinalPermutationInvertsTheInitial : Prop :=
  (∀ x : BitVec 64, permute 64 ipInvTable (permute 64 ipTable x) = x) ∧
  (∀ x : BitVec 64, permute 64 ipTable (permute 64 ipInvTable x) = x) ∧
  (∀ i, i < 64 → ipInvTable.getD (ipTable.getD i 0 - 1) 0 = i + 1)

/-- 40_tables.md R148 (1) to (5) and (7): the structure of the fixed tables. -/
def Obligations.TablesHaveTheirStructure : Prop :=
  (List.range' 1 64).isPerm ipTable = true ∧ (List.range' 1 64).isPerm ipInvTable = true ∧
  (List.range' 1 32).isPerm pTable = true ∧
  ((List.range' 1 64).filter fun i => i % 8 != 0).isPerm pc1Table = true ∧
  ((List.range' 1 56).filter fun i => !([9, 18, 22, 25, 35, 38, 43, 54].contains i)).isPerm pc2Table = true ∧
  (List.range' 1 32 ++ [1, 4, 5, 8, 9, 12, 13, 16, 17, 20, 21, 24, 25, 28, 29, 32]).isPerm eTable = true ∧
  (∀ n, n < 8 → ∀ row, row < 4 → (List.range 16).isPerm (((sboxTable n).drop (16 * row)).take 16) = true) ∧
  shifts.sum = 28

/-- 41_key_schedule.md R171: two keys that differ in parity bits only bind the same CD0. -/
def Obligations.ParityBitsDoNotReachTheKey : Prop :=
  ∀ k1 k2 : BitVec 64, (∀ i, i < 64 → i % 8 ≠ 7 → bit k1 i = bit k2 i) →
    KeySlot.ofKey k1 = KeySlot.ofKey k2

/-- 41_key_schedule.md R175: the running registers of encryption, rotated left by SHIFTS[r] before round r, and those of
decryption, which starts at rotl(C0, 28) = C0 and is rotated right by SHIFTS[r] after round r from 15 down, give the round
key of the cumulative definition. -/
def Obligations.RunningKeyScheduleAgrees : Prop :=
  ∀ (cd0 : BitVec 56) (r : BitVec 4),
    rotl (halfC cd0) 28 = halfC cd0 ∧ rotl (halfD cd0) 28 = halfD cd0 ∧
    permute 48 pc2Table (runningLeft (halfC cd0) r.toNat ++ runningLeft (halfD cd0) r.toNat) = roundKey cd0 r ∧
    permute 48 pc2Table (runningRight (halfC cd0) r.toNat ++ runningRight (halfD cd0) r.toNat) = roundKey cd0 r

/-- 43_des.md R218: DES decryption undoes encryption and encryption undoes decryption, for every key and every block. -/
def Obligations.DesRoundTrip : Prop :=
  ∀ key m : BitVec 64,
    desDecrypt (pc1 key) (desEncrypt (pc1 key) m) = m ∧ desEncrypt (pc1 key) (desDecrypt (pc1 key) m) = m

/-- 44_tdea.md R248: TDEA decryption undoes encryption and the converse, for every binding of the three instances. -/
def Obligations.TdeaRoundTrip : Prop :=
  ∀ (s : State) (m : BitVec 64),
    tdeaDecrypt s.inst1.cd0 s.inst2.cd0 s.inst3.cd0 (tdeaEncrypt s.inst1.cd0 s.inst2.cd0 s.inst3.cd0 m) = m ∧
    tdeaEncrypt s.inst1.cd0 s.inst2.cd0 s.inst3.cd0 (tdeaDecrypt s.inst1.cd0 s.inst2.cd0 s.inst3.cd0 m) = m

/-- 44_tdea.md R246: with the same key in the three instances TDEA is single DES. -/
def Obligations.SingleKeyTdeaIsDes : Prop :=
  ∀ s : State, s.inst1.cd0 = s.inst2.cd0 → s.inst2.cd0 = s.inst3.cd0 → ∀ m : BitVec 64,
    tdeaEncrypt s.inst1.cd0 s.inst2.cd0 s.inst3.cd0 m = desEncrypt s.inst1.cd0 m ∧
    tdeaDecrypt s.inst1.cd0 s.inst2.cd0 s.inst3.cd0 m = desDecrypt s.inst1.cd0 m

/-- 44_tdea.md R247: TDEA_SETKEY with LEN 16 and K1, K2 binds what LEN 24 binds with K1, K2, K1, so TDEA_ENC gives the same
result after either. -/
def Obligations.TwoKeyBindingIsK1K2K1 : Prop :=
  ∀ s t : State, s.busy = false → t.busy = false →
    t.kb.kb0 = s.kb.kb0 → t.kb.kb1 = s.kb.kb1 → t.kb.kb2 = s.kb.kb2 → t.kb.kb3 = s.kb.kb3 →
    t.kb.kb4 = s.kb.kb0 → t.kb.kb5 = s.kb.kb1 →
    ∃ s' t', exec (.tdeaSetkey 16) s = .next s' ∧ exec (.tdeaSetkey 24) t = .next t' ∧
      s'.inst1 = t'.inst1 ∧ s'.inst2 = t'.inst2 ∧ s'.inst3 = t'.inst3 ∧
      ∀ m, tdeaEncrypt s'.inst1.cd0 s'.inst2.cd0 s'.inst3.cd0 m = tdeaEncrypt t'.inst1.cd0 t'.inst2.cd0 t'.inst3.cd0 m

/-- 43_des.md R215, corner case: under the weak key 0x0101010101010101, whose round keys are all equal, encryption and
decryption agree. -/
def Obligations.WeakKeyEncryptsAsItDecrypts : Prop :=
  pc1 0x0101010101010101 = 0 ∧ (∀ r1 r2 : BitVec 4, roundKey 0 r1 = roundKey 0 r2) ∧
  ∀ x : BitVec 64, desEncrypt (pc1 0x0101010101010101) x = desDecrypt (pc1 0x0101010101010101) x

/-! ## The engine -/

/-- 43_des.md R210: the passes of every command that runs. -/
def Obligations.PassScheduleIsAsListed : Prop :=
  ∀ inst : BitVec 2,
    passes 0x3 inst = [(inst, .enc)] ∧ passes 0x4 inst = [(inst, .dec)] ∧
    passes 0x5 0 = [(1, .enc), (2, .dec), (3, .enc)] ∧ passes 0x6 0 = [(3, .dec), (2, .enc), (1, .dec)] ∧
    npass 0x3 = 1 ∧ npass 0x4 = 1 ∧ npass 0x5 = 3 ∧ npass 0x6 = 3

/-- 43_des.md R213, R214: an engine step performs one round of the pass PASS with the round key RND (or 15 - RND) selects;
the 16th round of a pass hands over to the next pass or completes: DOUT, BUSY, DONE, PASS and RND are written. L and R after
completion are not said: they are free values (log 4). -/
def Obligations.EngineStepPerformsOneRound : Prop :=
  ∀ (s : State) (inst : BitVec 2) (dir : Dir) (k : KeySlot), s.seq.pass ≠ 0 →
    (passes s.seq.curop s.seq.curinst)[s.seq.pass.toNat - 1]? = some (inst, dir) → s.slot? inst = some k →
    let key := roundKey k.cd0 (if dir = .enc then s.seq.rnd else 15 - s.seq.rnd)
    let l := s.r
    let r := s.l ^^^ feistel s.r key
    let x := permute 64 ipInvTable (r ++ l)
    (s.seq.rnd < 15 →
      engineStep s = .next { s with l := l, r := r, seq := { s.seq with rnd := s.seq.rnd + 1 } }) ∧
    (s.seq.rnd = 15 → s.seq.pass.toNat < npass s.seq.curop →
      engineStep s = .next { s with
        l := slice (permute 64 ipTable x) 0 32, r := slice (permute 64 ipTable x) 32 32
        seq := { s.seq with pass := s.seq.pass + 1, rnd := 0 } }) ∧
    (s.seq.rnd = 15 → npass s.seq.curop ≤ s.seq.pass.toNat →
      ∃ l' r', engineStep s = .next { s with
        dout := { hi := slice x 0 32, lo := slice x 32 32 }
        busy := false, done := true, seq := { s.seq with pass := 0, rnd := 0 }
        l := l', r := r', freeCount := s.freeCount + 1 })

/-- 43_des.md R213, R214: an engine step reads no host register: CTRL, KB, DIN, RKSEL, DOUT, DONE and the error record do not
influence it. It leaves CTRL, KB, DIN, RKSEL, the error record, the instances (so STATUS.KV) and CUROP as they are, and DOUT
and DONE too unless it is the last step of the run, which writes them. BUSY, PASS and RND are said in
EngineStepPerformsOneRound. -/
def Obligations.EngineStepReadsNoHostRegister : Prop :=
  ∀ (s t : State) (c : Ctrl) (e : ErrorRecord) (kb : KeyBuffer) (d : BlockWords) (k : RkSel) (b : BlockWords) (f : Bool),
    engineStep s = .next t →
    let last := s.seq.rnd = 15 ∧ npass s.seq.curop ≤ s.seq.pass.toNat
    engineStep { s with ctrl := c, error := e, kb := kb, din := d, rksel := k, dout := b, done := f } =
      .next { t with
        ctrl := c, error := e, kb := kb, din := d, rksel := k
        dout := if last then t.dout else b, done := if last then t.done else f } ∧
    t.ctrl = s.ctrl ∧ t.error = s.error ∧ t.kb = s.kb ∧ t.din = s.din ∧ t.rksel = s.rksel ∧
    t.inst1 = s.inst1 ∧ t.inst2 = s.inst2 ∧ t.inst3 = s.inst3 ∧ t.seq.curop = s.seq.curop ∧
    (¬ last → t.dout = s.dout ∧ t.done = s.done)

/-- 43_des.md R217: after DES_ENC or DES_DEC is accepted, with no CLEAR and no reset, whatever the host does between, the
run is busy with DOUT unchanged until 16 engine steps are done; the 16th completes it, and DOUT is then the DES function of
the block and key at acceptance; the instance's key is constant throughout the run. -/
def Obligations.DesRunComputesTheDesFunction : Prop :=
  ∀ (s t : State) (inst : BitVec 2) (k : KeySlot) (dir : Dir),
    s.busy = false → s.slot? inst = some k → k.kv = true →
    exec (match dir with | .enc => .desEnc inst 8 | .dec => .desDec inst 8) s = .next t →
    ∀ (n : Nat) (u : State), core.run n t = .next u → undisturbed n t = true →
      let result : BitVec 64 := match dir with
        | .enc => desEncrypt k.cd0 (s.din.hi ++ s.din.lo)
        | .dec => desDecrypt k.cd0 (s.din.hi ++ s.din.lo)
      (engineSteps n t < 16 → u.busy = true ∧ u.dout = s.dout ∧ u.slot? inst = some k) ∧
      (engineSteps n t = 16 → u.dout.hi ++ u.dout.lo = result) ∧
      (∀ v, engineSteps n t = 15 → u.engineStepNext = true → step u = .next v →
        v.busy = false ∧ v.done = true ∧ v.dout.hi ++ v.dout.lo = result)

/-- 44_tdea.md R245: after TDEA_ENC or TDEA_DEC is accepted, with no CLEAR and no reset, whatever the host does between, the
run is busy with DOUT unchanged until 48 engine steps are done; the 48th completes it, and DOUT is then the TDEA function of
the block and the keys of the three instances at acceptance, which are constant during the run. -/
def Obligations.TdeaRunComputesTheTdeaFunction : Prop :=
  ∀ (s t : State) (dir : Dir),
    s.busy = false → s.inst1.kv = true → s.inst2.kv = true → s.inst3.kv = true →
    exec (match dir with | .enc => .tdeaEnc 8 | .dec => .tdeaDec 8) s = .next t →
    ∀ (n : Nat) (u : State), core.run n t = .next u → undisturbed n t = true →
      let result : BitVec 64 := match dir with
        | .enc => tdeaEncrypt s.inst1.cd0 s.inst2.cd0 s.inst3.cd0 (s.din.hi ++ s.din.lo)
        | .dec => tdeaDecrypt s.inst1.cd0 s.inst2.cd0 s.inst3.cd0 (s.din.hi ++ s.din.lo)
      (engineSteps n t < 48 → u.busy = true ∧ u.dout = s.dout ∧
        u.inst1 = s.inst1 ∧ u.inst2 = s.inst2 ∧ u.inst3 = s.inst3) ∧
      (engineSteps n t = 48 → u.dout.hi ++ u.dout.lo = result) ∧
      (∀ v, engineSteps n t = 47 → u.engineStepNext = true → step u = .next v →
        v.busy = false ∧ v.done = true ∧ v.dout.hi ++ v.dout.lo = result)

/-- 43_des.md R219: what a run computes depends on DIN and the instances at acceptance only, whatever ran before. -/
def Obligations.ResultIgnoresWhatRanBefore : Prop :=
  ∀ (i : Instr) (s1 s2 t1 t2 : State), s1.busy = false → s2.busy = false →
    s1.din = s2.din → s1.inst1 = s2.inst1 → s1.inst2 = s2.inst2 → s1.inst3 = s2.inst3 →
    exec i s1 = .next t1 → exec i s2 = .next t2 →
    t1.busy = t2.busy ∧ (t1.busy = true → runResult t1 = runResult t2 ∧ remainingSteps t1 = remainingSteps t2)

/-- 70_reset_and_hazards.md R350, 30_encoding.md R110: a wait ends. With no turn fixed (the model's fair order, log 2), from
every state that meets the invariants, within 49 steps the wait has been performed and the engine is idle. -/
def Obligations.WaitEnds : Prop :=
  ∀ (s : State) (rest : List HostStmt), s.Inv → s.sched = [] → s.host = wait :: rest →
    ∃ n t, n ≤ 49 ∧ core.run n s = .next t ∧ t.host = rest ∧ t.busy = false

/-! ## Invariants and whole-machine rules -/

/-- 10_state.md R53: the state right after reset meets the invariants. -/
def Obligations.ResetMeetsTheStateInvariants : Prop :=
  State.reset.Inv ∧ State.reset.ErrorCodeInv

/-- 10_state.md R53: every step keeps the invariants, from every state that meets them. -/
def Obligations.StepKeepsTheStateInvariants : Prop :=
  ∀ s t : State, s.Inv → step s = .next t → t.Inv

/-- 10_state.md R41, 60_exceptions.md R301, 93_implementation_defined.md part 2: every step keeps ERRCODE in 0..7, and 0
exactly while no error is recorded. -/
def Obligations.StepKeepsTheErrorCodeDefined : Prop :=
  ∀ s t : State, s.ErrorCodeInv → step s = .next t → t.ErrorCodeInv

/-- 60_exceptions.md R307: no step stops: from every state that meets the invariants, a step answers a next state. -/
def Obligations.InvariantStatesNeverStop : Prop :=
  ∀ s : State, s.Inv → ∃ t, step s = .next t

/-- 41_key_schedule.md R179: only DES_SETKEY and TDEA_SETKEY, submitted on the host's turn to an idle engine, CLEAR and reset
change an instance; so a run's keys are constant and a write to KB changes no bound instance. -/
def Obligations.KeysChangeOnlyBySetkeyClearReset : Prop :=
  ∀ s t : State, step s = .next t → ¬ (t.inst1 = s.inst1 ∧ t.inst2 = s.inst2 ∧ t.inst3 = s.inst3) →
    s.resetNext = true ∨ (s.clearNext = true ∧ t.seq.curop = 7) ∨
      (s.busy = false ∧ (nextTurn s).1 = .host ∧ ∃ w i rest, s.host = .write 0x08 (.word w) :: rest ∧ decode w = .ok i ∧
        t.seq.curop = i.op ∧ (i.op = 1 ∨ i.op = 2))

/-- 10_state.md R47: only the engine step that completes a run, CLEAR and reset change DOUT. -/
def Obligations.DoutChangesOnlyAtCompletionClearReset : Prop :=
  ∀ s t : State, step s = .next t → t.dout ≠ s.dout →
    s.resetNext = true ∨ s.clearNext = true ∨ (s.engineStepNext = true ∧ t.busy = false ∧ t.done = true)

/-- 10_state.md R37: BUSY rises only when a DES or TDEA command is accepted and falls only by completion, CLEAR and reset. -/
def Obligations.BusyChangesOnlyAsListed : Prop :=
  ∀ s t : State, step s = .next t →
    (s.busy = false → t.busy = true →
      ∃ w i rest, s.host = .write 0x08 (.word w) :: rest ∧ decode w = .ok i ∧ t.seq.curop = i.op ∧
        (i.op = 3 ∨ i.op = 4 ∨ i.op = 5 ∨ i.op = 6)) ∧
    (s.busy = true → t.busy = false →
      s.resetNext = true ∨ s.clearNext = true ∨ (s.engineStepNext = true ∧ t.done = true))

/-- 10_state.md R38: DONE falls only when a DES or TDEA command is accepted, by a STATUS write with bit 1, and by reset. -/
def Obligations.DoneFallsOnlyAsListed : Prop :=
  ∀ s t : State, step s = .next t → s.done = true → t.done = false →
    s.resetNext = true ∨ (s.busy = false ∧ t.busy = true) ∨
      ∃ w rest, s.host = .write 0x0C (.word w) :: rest ∧ w.getLsbD 1 = true

/-! ## Host programs -/

/-- 30_encoding.md R110: `ldkey` fills the key segment it names and `ldblk` fills DIN, and they change nothing else. -/
def Obligations.LoadsFillTheNamedRegisters : Prop :=
  ∀ (s : State) (x : BitVec 64) (rest : List HostStmt) (turns : List Turn), s.sched = .host :: .host :: turns →
    (s.host = ldkey 0 x ++ rest → ∃ kb, core.run 2 s = .next { s with host := rest, sched := turns, kb := kb } ∧
      kb.kb0 ++ kb.kb1 = x ∧ kb = { s.kb with kb0 := kb.kb0, kb1 := kb.kb1 }) ∧
    (s.host = ldkey 1 x ++ rest → ∃ kb, core.run 2 s = .next { s with host := rest, sched := turns, kb := kb } ∧
      kb.kb2 ++ kb.kb3 = x ∧ kb = { s.kb with kb2 := kb.kb2, kb3 := kb.kb3 }) ∧
    (s.host = ldkey 2 x ++ rest → ∃ kb, core.run 2 s = .next { s with host := rest, sched := turns, kb := kb } ∧
      kb.kb4 ++ kb.kb5 = x ∧ kb = { s.kb with kb4 := kb.kb4, kb5 := kb.kb5 }) ∧
    (s.host = ldblk x ++ rest → ∃ d, core.run 2 s = .next { s with host := rest, sched := turns, din := d } ∧
      d.hi ++ d.lo = x)
end

