-- ==== Sys2Proof/Laws/Encoding.lean ====
section
/-! SUPPORT. The fields of an encoded command word (30_encoding.md R101, R107). -/

namespace Sys2Proof

section
variable (op : BitVec 4) (inst : BitVec 2) (len : BitVec 5)

/-- Each bit of an encoded word comes from one field, or is 0. -/
theorem getLsbD_encodeFields (i : Nat) (h : i < 32) :
    (encodeFields op inst len).getLsbD i =
      if i < 4 then op.getLsbD i
      else if i < 6 then inst.getLsbD (i - 4)
      else if i < 8 then false
      else len.getLsbD (i - 8) := by
  unfold encodeFields
  simp only [BitVec.getLsbD_or, BitVec.getLsbD_setWidth, BitVec.getLsbD_shiftLeft, h, decide_true, Bool.true_and]
  by_cases h4 : i < 4
  · have h8 : i < 8 := by omega
    simp [h4, h8]
  · by_cases h6 : i < 6
    · have h8 : i < 8 := by omega
      have := BitVec.getLsbD_of_ge op i (by omega)
      simp [h4, h6, h8, this]; omega
    · have ho := BitVec.getLsbD_of_ge op i (by omega)
      have hi := BitVec.getLsbD_of_ge inst (i - 4) (by omega)
      by_cases h8 : i < 8
      · simp [h4, h6, h8, ho, hi]
      · simp [h4, h6, h8, ho, hi]; omega

@[simp] theorem fieldOp_encodeFields : fieldOp (encodeFields op inst len) = op := by
  apply BitVec.eq_of_getLsbD_eq
  intro i hi
  rw [fieldOp, BitVec.getLsbD_extractLsb', getLsbD_encodeFields _ _ _ _ (by omega)]
  simp [hi]

@[simp] theorem fieldInst_encodeFields : fieldInst (encodeFields op inst len) = inst := by
  apply BitVec.eq_of_getLsbD_eq
  intro i hi
  rw [fieldInst, BitVec.getLsbD_extractLsb', getLsbD_encodeFields _ _ _ _ (by omega)]
  have h6 : 4 + i < 6 := by omega
  simp [hi, h6]

@[simp] theorem fieldRsv0_encodeFields : fieldRsv0 (encodeFields op inst len) = 0 := by
  apply BitVec.eq_of_getLsbD_eq
  intro i hi
  rw [fieldRsv0, BitVec.getLsbD_extractLsb', getLsbD_encodeFields _ _ _ _ (by omega)]
  have h4 : ¬ 6 + i < 4 := by omega
  have h6 : ¬ 6 + i < 6 := by omega
  have h8 : 6 + i < 8 := by omega
  simp [h4, h6, h8]

@[simp] theorem fieldLen_encodeFields : fieldLen (encodeFields op inst len) = len := by
  apply BitVec.eq_of_getLsbD_eq
  intro i hi
  rw [fieldLen, BitVec.getLsbD_extractLsb', getLsbD_encodeFields _ _ _ _ (by omega)]
  have h4 : ¬ 8 + i < 4 := by omega
  have h6 : ¬ 8 + i < 6 := by omega
  have h8 : ¬ 8 + i < 8 := by omega
  simp [hi, h4, h6, h8]

@[simp] theorem fieldRsv1_encodeFields : fieldRsv1 (encodeFields op inst len) = 0 := by
  apply BitVec.eq_of_getLsbD_eq
  intro i hi
  rw [fieldRsv1, BitVec.getLsbD_extractLsb', getLsbD_encodeFields _ _ _ _ (by omega)]
  have h4 : ¬ 13 + i < 4 := by omega
  have h6 : ¬ 13 + i < 6 := by omega
  have h8 : ¬ 13 + i < 8 := by omega
  have := BitVec.getLsbD_of_ge len (13 + i - 8) (by omega)
  simp [h4, h6, h8, this]

end

/-- A word whose reserved fields are 0 is the encoding of its fields. -/
theorem encodeFields_fields (w : Word) (h1 : fieldRsv1 w = 0) (h0 : fieldRsv0 w = 0) :
    encodeFields (fieldOp w) (fieldInst w) (fieldLen w) = w := by
  apply BitVec.eq_of_getLsbD_eq
  intro i hi
  rw [getLsbD_encodeFields _ _ _ _ hi]
  have b1 : ∀ j, (fieldRsv1 w).getLsbD j = false := by intro j; simp [h1]
  have b0 : ∀ j, (fieldRsv0 w).getLsbD j = false := by intro j; simp [h0]
  unfold fieldRsv1 at b1
  unfold fieldRsv0 at b0
  simp only [BitVec.getLsbD_extractLsb'] at b1 b0
  unfold fieldOp fieldInst fieldLen
  simp only [BitVec.getLsbD_extractLsb']
  split
  · simp [*]
  · split
    · have : i - 4 < 2 := by omega
      simp only [this, decide_true, Bool.true_and]; congr 1; omega
    · split
      · have := b0 (i - 6)
        have hl : i - 6 < 2 := by omega
        have he : 6 + (i - 6) = i := by omega
        simp only [hl, decide_true, Bool.true_and, he] at this
        exact this.symm
      · by_cases h13 : i < 13
        · have : i - 8 < 5 := by omega
          simp only [this, decide_true, Bool.true_and]; congr 1; omega
        · have := b1 (i - 13)
          have hl : i - 13 < 19 := by omega
          have he : 13 + (i - 13) = i := by omega
          have hn : ¬ i - 8 < 5 := by omega
          simp only [hl, decide_true, Bool.true_and, he] at this
          simp [hn, this]

end Sys2Proof
end

