-- ==== Sys2Proof/Laws/State.lean ====
section
/-! SUPPORT. What each named update of the state does to each field: one lemma per field and update, so that no later proof unfolds a record update. -/

namespace Sys2Proof.Machine

section

/-! `statusW1c` -/

section
variable (w : Word) (s : State)
@[simp] theorem statusW1c_ctrl : (statusW1c w s).ctrl = s.ctrl := rfl
@[simp] theorem statusW1c_busy : (statusW1c w s).busy = s.busy := rfl
@[simp] theorem statusW1c_done : (statusW1c w s).done = (s.done && !w.getLsbD 1) := rfl
@[simp] theorem statusW1c_error : (statusW1c w s).error = { err := s.error.err && !w.getLsbD 2, eovf := s.error.eovf && !w.getLsbD 3, code := (if w.getLsbD 2 then 0 else s.error.code), info := (if w.getLsbD 2 then 0 else s.error.info) } := rfl
@[simp] theorem statusW1c_kb : (statusW1c w s).kb = s.kb := rfl
@[simp] theorem statusW1c_din : (statusW1c w s).din = s.din := rfl
@[simp] theorem statusW1c_dout : (statusW1c w s).dout = s.dout := rfl
@[simp] theorem statusW1c_rksel : (statusW1c w s).rksel = s.rksel := rfl
@[simp] theorem statusW1c_inst1 : (statusW1c w s).inst1 = s.inst1 := rfl
@[simp] theorem statusW1c_inst2 : (statusW1c w s).inst2 = s.inst2 := rfl
@[simp] theorem statusW1c_inst3 : (statusW1c w s).inst3 = s.inst3 := rfl
@[simp] theorem statusW1c_seq : (statusW1c w s).seq = s.seq := rfl
@[simp] theorem statusW1c_l : (statusW1c w s).l = s.l := rfl
@[simp] theorem statusW1c_r : (statusW1c w s).r = s.r := rfl
@[simp] theorem statusW1c_host : (statusW1c w s).host = s.host := rfl
@[simp] theorem statusW1c_sched : (statusW1c w s).sched = s.sched := rfl
@[simp] theorem statusW1c_reads : (statusW1c w s).reads = s.reads := rfl
@[simp] theorem statusW1c_freeCount : (statusW1c w s).freeCount = s.freeCount := rfl
end

/-! `bindKey` -/

section
variable (inst : BitVec 2) (key : BitVec 64) (s : State)
@[simp] theorem bindKey_ctrl : (bindKey inst key s).ctrl = s.ctrl := rfl
@[simp] theorem bindKey_busy : (bindKey inst key s).busy = s.busy := rfl
@[simp] theorem bindKey_done : (bindKey inst key s).done = s.done := rfl
@[simp] theorem bindKey_error : (bindKey inst key s).error = s.error := rfl
@[simp] theorem bindKey_kb : (bindKey inst key s).kb = s.kb := rfl
@[simp] theorem bindKey_din : (bindKey inst key s).din = s.din := rfl
@[simp] theorem bindKey_dout : (bindKey inst key s).dout = s.dout := rfl
@[simp] theorem bindKey_rksel : (bindKey inst key s).rksel = s.rksel := rfl
@[simp] theorem bindKey_inst1 : (bindKey inst key s).inst1 = if inst = 1 then KeySlot.ofKey key else s.inst1 := rfl
@[simp] theorem bindKey_inst2 : (bindKey inst key s).inst2 = if inst = 2 then KeySlot.ofKey key else s.inst2 := rfl
@[simp] theorem bindKey_inst3 : (bindKey inst key s).inst3 = if inst = 3 then KeySlot.ofKey key else s.inst3 := rfl
@[simp] theorem bindKey_seq : (bindKey inst key s).seq = s.seq := rfl
@[simp] theorem bindKey_l : (bindKey inst key s).l = s.l := rfl
@[simp] theorem bindKey_r : (bindKey inst key s).r = s.r := rfl
@[simp] theorem bindKey_host : (bindKey inst key s).host = s.host := rfl
@[simp] theorem bindKey_sched : (bindKey inst key s).sched = s.sched := rfl
@[simp] theorem bindKey_reads : (bindKey inst key s).reads = s.reads := rfl
@[simp] theorem bindKey_freeCount : (bindKey inst key s).freeCount = s.freeCount := rfl
end

/-! `bindAll` -/

section
variable (k1 k2 k3 : BitVec 64) (s : State)
@[simp] theorem bindAll_ctrl : (bindAll k1 k2 k3 s).ctrl = s.ctrl := rfl
@[simp] theorem bindAll_busy : (bindAll k1 k2 k3 s).busy = s.busy := rfl
@[simp] theorem bindAll_done : (bindAll k1 k2 k3 s).done = s.done := rfl
@[simp] theorem bindAll_error : (bindAll k1 k2 k3 s).error = s.error := rfl
@[simp] theorem bindAll_kb : (bindAll k1 k2 k3 s).kb = s.kb := rfl
@[simp] theorem bindAll_din : (bindAll k1 k2 k3 s).din = s.din := rfl
@[simp] theorem bindAll_dout : (bindAll k1 k2 k3 s).dout = s.dout := rfl
@[simp] theorem bindAll_rksel : (bindAll k1 k2 k3 s).rksel = s.rksel := rfl
@[simp] theorem bindAll_inst1 : (bindAll k1 k2 k3 s).inst1 = KeySlot.ofKey k1 := rfl
@[simp] theorem bindAll_inst2 : (bindAll k1 k2 k3 s).inst2 = KeySlot.ofKey k2 := rfl
@[simp] theorem bindAll_inst3 : (bindAll k1 k2 k3 s).inst3 = KeySlot.ofKey k3 := rfl
@[simp] theorem bindAll_seq : (bindAll k1 k2 k3 s).seq = s.seq := rfl
@[simp] theorem bindAll_l : (bindAll k1 k2 k3 s).l = s.l := rfl
@[simp] theorem bindAll_r : (bindAll k1 k2 k3 s).r = s.r := rfl
@[simp] theorem bindAll_host : (bindAll k1 k2 k3 s).host = s.host := rfl
@[simp] theorem bindAll_sched : (bindAll k1 k2 k3 s).sched = s.sched := rfl
@[simp] theorem bindAll_reads : (bindAll k1 k2 k3 s).reads = s.reads := rfl
@[simp] theorem bindAll_freeCount : (bindAll k1 k2 k3 s).freeCount = s.freeCount := rfl
end

/-! `completeAtOnce` -/

section
variable (op : BitVec 4) (s : State)
@[simp] theorem completeAtOnce_ctrl : (completeAtOnce op s).ctrl = s.ctrl := rfl
@[simp] theorem completeAtOnce_busy : (completeAtOnce op s).busy = s.busy := rfl
@[simp] theorem completeAtOnce_done : (completeAtOnce op s).done = true := rfl
@[simp] theorem completeAtOnce_error : (completeAtOnce op s).error = s.error := rfl
@[simp] theorem completeAtOnce_kb : (completeAtOnce op s).kb = s.kb := rfl
@[simp] theorem completeAtOnce_din : (completeAtOnce op s).din = s.din := rfl
@[simp] theorem completeAtOnce_dout : (completeAtOnce op s).dout = s.dout := rfl
@[simp] theorem completeAtOnce_rksel : (completeAtOnce op s).rksel = s.rksel := rfl
@[simp] theorem completeAtOnce_inst1 : (completeAtOnce op s).inst1 = s.inst1 := rfl
@[simp] theorem completeAtOnce_inst2 : (completeAtOnce op s).inst2 = s.inst2 := rfl
@[simp] theorem completeAtOnce_inst3 : (completeAtOnce op s).inst3 = s.inst3 := rfl
@[simp] theorem completeAtOnce_seq : (completeAtOnce op s).seq = { s.seq with curop := op } := rfl
@[simp] theorem completeAtOnce_l : (completeAtOnce op s).l = s.l := rfl
@[simp] theorem completeAtOnce_r : (completeAtOnce op s).r = s.r := rfl
@[simp] theorem completeAtOnce_host : (completeAtOnce op s).host = s.host := rfl
@[simp] theorem completeAtOnce_sched : (completeAtOnce op s).sched = s.sched := rfl
@[simp] theorem completeAtOnce_reads : (completeAtOnce op s).reads = s.reads := rfl
@[simp] theorem completeAtOnce_freeCount : (completeAtOnce op s).freeCount = s.freeCount := rfl
end

/-! `start` -/

section
variable (op : BitVec 4) (inst : BitVec 2) (s : State)
@[simp] theorem start_ctrl : (start op inst s).ctrl = s.ctrl := rfl
@[simp] theorem start_busy : (start op inst s).busy = true := rfl
@[simp] theorem start_done : (start op inst s).done = false := rfl
@[simp] theorem start_error : (start op inst s).error = s.error := rfl
@[simp] theorem start_kb : (start op inst s).kb = s.kb := rfl
@[simp] theorem start_din : (start op inst s).din = s.din := rfl
@[simp] theorem start_dout : (start op inst s).dout = s.dout := rfl
@[simp] theorem start_rksel : (start op inst s).rksel = s.rksel := rfl
@[simp] theorem start_inst1 : (start op inst s).inst1 = s.inst1 := rfl
@[simp] theorem start_inst2 : (start op inst s).inst2 = s.inst2 := rfl
@[simp] theorem start_inst3 : (start op inst s).inst3 = s.inst3 := rfl
@[simp] theorem start_seq : (start op inst s).seq = { curop := op, curinst := inst, pass := 1, rnd := 0 } := rfl
@[simp] theorem start_l : (start op inst s).l = (splitBlock s.din.block).1 := rfl
@[simp] theorem start_r : (start op inst s).r = (splitBlock s.din.block).2 := rfl
@[simp] theorem start_host : (start op inst s).host = s.host := rfl
@[simp] theorem start_sched : (start op inst s).sched = s.sched := rfl
@[simp] theorem start_reads : (start op inst s).reads = s.reads := rfl
@[simp] theorem start_freeCount : (start op inst s).freeCount = s.freeCount := rfl
end

/-! `finish` -/

section
variable (x : BitVec 64) (s : State)
@[simp] theorem finish_ctrl : (finish x s).ctrl = s.ctrl := rfl
@[simp] theorem finish_busy : (finish x s).busy = false := rfl
@[simp] theorem finish_done : (finish x s).done = true := rfl
@[simp] theorem finish_error : (finish x s).error = s.error := rfl
@[simp] theorem finish_kb : (finish x s).kb = s.kb := rfl
@[simp] theorem finish_din : (finish x s).din = s.din := rfl
@[simp] theorem finish_dout : (finish x s).dout = BlockWords.ofBlock x := rfl
@[simp] theorem finish_rksel : (finish x s).rksel = s.rksel := rfl
@[simp] theorem finish_inst1 : (finish x s).inst1 = s.inst1 := rfl
@[simp] theorem finish_inst2 : (finish x s).inst2 = s.inst2 := rfl
@[simp] theorem finish_inst3 : (finish x s).inst3 = s.inst3 := rfl
@[simp] theorem finish_seq : (finish x s).seq = { s.seq with pass := 0, rnd := 0 } := rfl
@[simp] theorem finish_l : (finish x s).l = (Config.halvesAfterRun s.freeCount s.l s.r).1 := rfl
@[simp] theorem finish_r : (finish x s).r = (Config.halvesAfterRun s.freeCount s.l s.r).2 := rfl
@[simp] theorem finish_host : (finish x s).host = s.host := rfl
@[simp] theorem finish_sched : (finish x s).sched = s.sched := rfl
@[simp] theorem finish_reads : (finish x s).reads = s.reads := rfl
@[simp] theorem finish_freeCount : (finish x s).freeCount = s.freeCount + 1 := rfl
end

/-! `handOver` -/

section
variable (x : BitVec 64) (s : State)
@[simp] theorem handOver_ctrl : (handOver x s).ctrl = s.ctrl := rfl
@[simp] theorem handOver_busy : (handOver x s).busy = s.busy := rfl
@[simp] theorem handOver_done : (handOver x s).done = s.done := rfl
@[simp] theorem handOver_error : (handOver x s).error = s.error := rfl
@[simp] theorem handOver_kb : (handOver x s).kb = s.kb := rfl
@[simp] theorem handOver_din : (handOver x s).din = s.din := rfl
@[simp] theorem handOver_dout : (handOver x s).dout = s.dout := rfl
@[simp] theorem handOver_rksel : (handOver x s).rksel = s.rksel := rfl
@[simp] theorem handOver_inst1 : (handOver x s).inst1 = s.inst1 := rfl
@[simp] theorem handOver_inst2 : (handOver x s).inst2 = s.inst2 := rfl
@[simp] theorem handOver_inst3 : (handOver x s).inst3 = s.inst3 := rfl
@[simp] theorem handOver_seq : (handOver x s).seq = { s.seq with pass := s.seq.pass + 1, rnd := 0 } := rfl
@[simp] theorem handOver_l : (handOver x s).l = (splitBlock x).1 := rfl
@[simp] theorem handOver_r : (handOver x s).r = (splitBlock x).2 := rfl
@[simp] theorem handOver_host : (handOver x s).host = s.host := rfl
@[simp] theorem handOver_sched : (handOver x s).sched = s.sched := rfl
@[simp] theorem handOver_reads : (handOver x s).reads = s.reads := rfl
@[simp] theorem handOver_freeCount : (handOver x s).freeCount = s.freeCount := rfl
end

/-! `eraseAll` -/

section
variable (s : State)
@[simp] theorem eraseAll_ctrl : (eraseAll s).ctrl = s.ctrl := rfl
@[simp] theorem eraseAll_busy : (eraseAll s).busy = false := rfl
@[simp] theorem eraseAll_done : (eraseAll s).done = s.done := rfl
@[simp] theorem eraseAll_error : (eraseAll s).error = s.error := rfl
@[simp] theorem eraseAll_kb : (eraseAll s).kb = KeyBuffer.zero := rfl
@[simp] theorem eraseAll_din : (eraseAll s).din = s.din := rfl
@[simp] theorem eraseAll_dout : (eraseAll s).dout = { hi := 0, lo := 0 } := rfl
@[simp] theorem eraseAll_rksel : (eraseAll s).rksel = s.rksel := rfl
@[simp] theorem eraseAll_inst1 : (eraseAll s).inst1 = KeySlot.unbound := rfl
@[simp] theorem eraseAll_inst2 : (eraseAll s).inst2 = KeySlot.unbound := rfl
@[simp] theorem eraseAll_inst3 : (eraseAll s).inst3 = KeySlot.unbound := rfl
@[simp] theorem eraseAll_seq : (eraseAll s).seq = { s.seq with curinst := 0, pass := 0, rnd := 0 } := rfl
@[simp] theorem eraseAll_l : (eraseAll s).l = 0 := rfl
@[simp] theorem eraseAll_r : (eraseAll s).r = 0 := rfl
@[simp] theorem eraseAll_host : (eraseAll s).host = s.host := rfl
@[simp] theorem eraseAll_sched : (eraseAll s).sched = s.sched := rfl
@[simp] theorem eraseAll_reads : (eraseAll s).reads = s.reads := rfl
@[simp] theorem eraseAll_freeCount : (eraseAll s).freeCount = s.freeCount := rfl
end

/-! `applyReset` -/

section
variable (s : State)
@[simp] theorem applyReset_ctrl : (applyReset s).ctrl = State.reset.ctrl := rfl
@[simp] theorem applyReset_busy : (applyReset s).busy = State.reset.busy := rfl
@[simp] theorem applyReset_done : (applyReset s).done = State.reset.done := rfl
@[simp] theorem applyReset_error : (applyReset s).error = State.reset.error := rfl
@[simp] theorem applyReset_kb : (applyReset s).kb = State.reset.kb := rfl
@[simp] theorem applyReset_din : (applyReset s).din = State.reset.din := rfl
@[simp] theorem applyReset_dout : (applyReset s).dout = State.reset.dout := rfl
@[simp] theorem applyReset_rksel : (applyReset s).rksel = State.reset.rksel := rfl
@[simp] theorem applyReset_inst1 : (applyReset s).inst1 = State.reset.inst1 := rfl
@[simp] theorem applyReset_inst2 : (applyReset s).inst2 = State.reset.inst2 := rfl
@[simp] theorem applyReset_inst3 : (applyReset s).inst3 = State.reset.inst3 := rfl
@[simp] theorem applyReset_seq : (applyReset s).seq = State.reset.seq := rfl
@[simp] theorem applyReset_l : (applyReset s).l = State.reset.l := rfl
@[simp] theorem applyReset_r : (applyReset s).r = State.reset.r := rfl
@[simp] theorem applyReset_host : (applyReset s).host = s.host := rfl
@[simp] theorem applyReset_sched : (applyReset s).sched = s.sched := rfl
@[simp] theorem applyReset_reads : (applyReset s).reads = s.reads := rfl
@[simp] theorem applyReset_freeCount : (applyReset s).freeCount = s.freeCount := rfl
end

/-! `countRound` -/

section
variable (s : State)
@[simp] theorem countRound_ctrl : (countRound s).ctrl = s.ctrl := rfl
@[simp] theorem countRound_busy : (countRound s).busy = s.busy := rfl
@[simp] theorem countRound_done : (countRound s).done = s.done := rfl
@[simp] theorem countRound_error : (countRound s).error = s.error := rfl
@[simp] theorem countRound_kb : (countRound s).kb = s.kb := rfl
@[simp] theorem countRound_din : (countRound s).din = s.din := rfl
@[simp] theorem countRound_dout : (countRound s).dout = s.dout := rfl
@[simp] theorem countRound_rksel : (countRound s).rksel = s.rksel := rfl
@[simp] theorem countRound_inst1 : (countRound s).inst1 = s.inst1 := rfl
@[simp] theorem countRound_inst2 : (countRound s).inst2 = s.inst2 := rfl
@[simp] theorem countRound_inst3 : (countRound s).inst3 = s.inst3 := rfl
@[simp] theorem countRound_seq : (countRound s).seq = { s.seq with rnd := s.seq.rnd + 1 } := rfl
@[simp] theorem countRound_l : (countRound s).l = s.l := rfl
@[simp] theorem countRound_r : (countRound s).r = s.r := rfl
@[simp] theorem countRound_host : (countRound s).host = s.host := rfl
@[simp] theorem countRound_sched : (countRound s).sched = s.sched := rfl
@[simp] theorem countRound_reads : (countRound s).reads = s.reads := rfl
@[simp] theorem countRound_freeCount : (countRound s).freeCount = s.freeCount := rfl
end

/-! `performRound` -/

section
variable (cd0 : BitVec 56) (dir : Dir) (s : State)
@[simp] theorem performRound_ctrl : (performRound cd0 dir s).ctrl = s.ctrl := rfl
@[simp] theorem performRound_busy : (performRound cd0 dir s).busy = s.busy := rfl
@[simp] theorem performRound_done : (performRound cd0 dir s).done = s.done := rfl
@[simp] theorem performRound_error : (performRound cd0 dir s).error = s.error := rfl
@[simp] theorem performRound_kb : (performRound cd0 dir s).kb = s.kb := rfl
@[simp] theorem performRound_din : (performRound cd0 dir s).din = s.din := rfl
@[simp] theorem performRound_dout : (performRound cd0 dir s).dout = s.dout := rfl
@[simp] theorem performRound_rksel : (performRound cd0 dir s).rksel = s.rksel := rfl
@[simp] theorem performRound_inst1 : (performRound cd0 dir s).inst1 = s.inst1 := rfl
@[simp] theorem performRound_inst2 : (performRound cd0 dir s).inst2 = s.inst2 := rfl
@[simp] theorem performRound_inst3 : (performRound cd0 dir s).inst3 = s.inst3 := rfl
@[simp] theorem performRound_seq : (performRound cd0 dir s).seq = s.seq := rfl
@[simp] theorem performRound_l : (performRound cd0 dir s).l = (feistelRound (roundKey cd0 (roundIndex dir s.seq.rnd)) (s.l, s.r)).1 := rfl
@[simp] theorem performRound_r : (performRound cd0 dir s).r = (feistelRound (roundKey cd0 (roundIndex dir s.seq.rnd)) (s.l, s.r)).2 := rfl
@[simp] theorem performRound_host : (performRound cd0 dir s).host = s.host := rfl
@[simp] theorem performRound_sched : (performRound cd0 dir s).sched = s.sched := rfl
@[simp] theorem performRound_reads : (performRound cd0 dir s).reads = s.reads := rfl
@[simp] theorem performRound_freeCount : (performRound cd0 dir s).freeCount = s.freeCount := rfl
end

/-! `raise` writes the error record only -/

section
variable (code : ErrCode) (info : Word) (s : State)
@[simp] theorem raise_ctrl : (raise code info s).ctrl = s.ctrl := by unfold raise; split <;> rfl
@[simp] theorem raise_busy : (raise code info s).busy = s.busy := by unfold raise; split <;> rfl
@[simp] theorem raise_done : (raise code info s).done = s.done := by unfold raise; split <;> rfl
@[simp] theorem raise_kb : (raise code info s).kb = s.kb := by unfold raise; split <;> rfl
@[simp] theorem raise_din : (raise code info s).din = s.din := by unfold raise; split <;> rfl
@[simp] theorem raise_dout : (raise code info s).dout = s.dout := by unfold raise; split <;> rfl
@[simp] theorem raise_rksel : (raise code info s).rksel = s.rksel := by unfold raise; split <;> rfl
@[simp] theorem raise_inst1 : (raise code info s).inst1 = s.inst1 := by unfold raise; split <;> rfl
@[simp] theorem raise_inst2 : (raise code info s).inst2 = s.inst2 := by unfold raise; split <;> rfl
@[simp] theorem raise_inst3 : (raise code info s).inst3 = s.inst3 := by unfold raise; split <;> rfl
@[simp] theorem raise_seq : (raise code info s).seq = s.seq := by unfold raise; split <;> rfl
@[simp] theorem raise_l : (raise code info s).l = s.l := by unfold raise; split <;> rfl
@[simp] theorem raise_r : (raise code info s).r = s.r := by unfold raise; split <;> rfl
@[simp] theorem raise_host : (raise code info s).host = s.host := by unfold raise; split <;> rfl
@[simp] theorem raise_sched : (raise code info s).sched = s.sched := by unfold raise; split <;> rfl
@[simp] theorem raise_reads : (raise code info s).reads = s.reads := by unfold raise; split <;> rfl
@[simp] theorem raise_freeCount : (raise code info s).freeCount = s.freeCount := by unfold raise; split <;> rfl
end

end

end Sys2Proof.Machine
end

