-- ==== Sys2Proof/Laws/Commands.lean ====
section
/-! SUPPORT. What a command can do, said once for all commands: the check that decides it and the state it leaves when accepted (60_exceptions.md R303). -/

namespace Sys2Proof.Machine

/-- An error changes nothing but the error record (60_exceptions.md R304, R305). -/
theorem raise_eq (code : ErrCode) (info : Word) (s : State) :
    raise code info s = { s with error := (raise code info s).error } := by
  unfold raise; split <;> rfl

/-- With ERR = 0 the error is recorded in full (60_exceptions.md R304). -/
theorem raise_first (code : ErrCode) (info : Word) (s : State) (h : s.error.err = false) :
    raise code info s =
      { s with error := { err := true, eovf := s.error.eovf, code := code.toBits, info := info } } := by
  simp [raise, h]

/-- With ERR = 1 only EOVF is set (60_exceptions.md R304). -/
theorem raise_later (code : ErrCode) (info : Word) (s : State) (h : s.error.err = true) :
    raise code info s = { s with error := { s.error with eovf := true } } := by
  simp [raise, h]

/-- After an error, ERR is set. -/
@[simp] theorem raise_err (code : ErrCode) (info : Word) (s : State) : (raise code info s).error.err = true := by
  by_cases h : s.error.err = true
  · simp [raise_later _ _ _ h, h]
  · simp [raise_first _ _ _ (by simpa using h)]

/-- No check fails. -/
theorem firstFailing_none {l : List (Bool × ErrCode)} : firstFailing l = none ↔ ∀ p ∈ l, p.1 = false := by
  induction l with
  | nil => simp [firstFailing]
  | cons p l ih =>
    obtain ⟨failed, code⟩ := p
    cases failed <;> simp [firstFailing, ih]

/-- The checks of a command, in the order of 60_exceptions.md R303; CLEAR has none. -/
def commandCheck : Instr → State → Option ErrCode
  | .nop, s => nopCheck s
  | .desSetkey inst len, s => desSetkeyCheck inst len s
  | .tdeaSetkey len, s => tdeaSetkeyCheck len s
  | .desEnc inst len, s => desRunCheck inst len s
  | .desDec inst len, s => desRunCheck inst len s
  | .tdeaEnc len, s => tdeaRunCheck len s
  | .tdeaDec len, s => tdeaRunCheck len s
  | .clear, _ => none

/-- The state an accepted command leaves. -/
def commandEffect : Instr → State → State
  | .nop, s => completeAtOnce 0x0 s
  | .desSetkey inst _, s => completeAtOnce 0x1 (bindKey inst s.kb.seg0 s)
  | .tdeaSetkey len, s => completeAtOnce 0x2 (bindAll s.kb.seg0 (s.kb.tdeaKey2 len) (s.kb.tdeaKey3 len) s)
  | .desEnc inst _, s => start 0x3 inst s
  | .desDec inst _, s => start 0x4 inst s
  | .tdeaEnc _, s => start 0x5 0 s
  | .tdeaDec _, s => start 0x6 0 s
  | .clear, s => completeAtOnce 0x7 (eraseAll s)

/-- A failing check is raised with the command word. -/
@[simp] theorem accept_some (code : ErrCode) (w : Word) (a s : State) :
    accept (some code) w a s = .next (raise code w s) := rfl

/-- With no check failing the command acts. -/
@[simp] theorem accept_none (w : Word) (a s : State) : accept none w a s = .next a := rfl

/-- Every command is its check, then its effect. -/
theorem exec_eq (i : Instr) (s : State) :
    exec i s = accept (commandCheck i s) (encode i) (commandEffect i s) s := by
  cases i <;> rfl

/-- A command always answers a next state: its error, or its effect. -/
theorem exec_next (i : Instr) (s : State) :
    (∃ code, commandCheck i s = some code ∧ exec i s = .next (raise code (encode i) s)) ∨
      (commandCheck i s = none ∧ exec i s = .next (commandEffect i s)) := by
  rw [exec_eq]
  cases h : commandCheck i s with
  | some code => exact .inl ⟨code, rfl, rfl⟩
  | none => exact .inr ⟨rfl, rfl⟩

section
variable {s : State} {inst : BitVec 2} {len : BitVec 5}

theorem nopCheck_none : nopCheck s = none ↔ s.busy = false := by
  simp [nopCheck, firstFailing_none]

theorem desSetkeyCheck_none : desSetkeyCheck inst len s = none ↔ s.busy = false ∧ inst ≠ 0 ∧ len = 8 := by
  simp [desSetkeyCheck, firstFailing_none]

theorem tdeaSetkeyCheck_none :
    tdeaSetkeyCheck len s = none ↔ s.busy = false ∧ (len = 8 ∨ len = 16 ∨ len = 24) := by
  simp only [tdeaSetkeyCheck, firstFailing_none, List.forall_mem_cons, Bool.not_eq_false', Bool.or_eq_true, beq_iff_eq,
    or_assoc]
  simp

theorem desRunCheck_none :
    desRunCheck inst len s = none ↔ s.busy = false ∧ inst ≠ 0 ∧ len = 8 ∧ s.bound inst = true := by
  simp [desRunCheck, firstFailing_none]

theorem tdeaRunCheck_none : tdeaRunCheck len s = none ↔ s.busy = false ∧ len = 8 ∧ s.allBound = true := by
  simp [tdeaRunCheck, firstFailing_none]

end

/-- An accepted command leaves the error record as it is. -/
@[simp] theorem commandEffect_error (i : Instr) (s : State) : (commandEffect i s).error = s.error := by cases i <;> rfl

/-- An accepted command leaves its OP in CUROP (10_state.md R42). -/
@[simp] theorem commandEffect_curop (i : Instr) (s : State) : (commandEffect i s).seq.curop = i.op := by cases i <;> rfl

/-- Only CLEAR is accepted while busy (60_exceptions.md R302, R303). -/
theorem commandCheck_busy (i : Instr) (s : State) (h : s.busy = true) (hc : i ≠ .clear) :
    commandCheck i s = some .busy := by
  cases i <;>
    simp_all [commandCheck, nopCheck, desSetkeyCheck, tdeaSetkeyCheck, desRunCheck, tdeaRunCheck, firstFailing]

/-! `slot?` -/

@[simp] theorem slot?_zero (s : State) : s.slot? 0 = none := rfl
@[simp] theorem slot?_one (s : State) : s.slot? 1 = some s.inst1 := rfl
@[simp] theorem slot?_two (s : State) : s.slot? 2 = some s.inst2 := rfl
@[simp] theorem slot?_three (s : State) : s.slot? 3 = some s.inst3 := rfl

/-- A non-zero instance number names an instance. -/
theorem slot?_isSome (s : State) (inst : BitVec 2) (h : inst ≠ 0) : ∃ k, s.slot? inst = some k := by
  obtain h0 | h1 | h2 | h3 : inst = 0 ∨ inst = 1 ∨ inst = 2 ∨ inst = 3 := by revert inst; decide
  · exact absurd h0 h
  · exact ⟨s.inst1, by rw [h1]; rfl⟩
  · exact ⟨s.inst2, by rw [h2]; rfl⟩
  · exact ⟨s.inst3, by rw [h3]; rfl⟩

/-- Only the three instances decide what a number names. -/
theorem slot?_congr {s t : State} (h1 : t.inst1 = s.inst1) (h2 : t.inst2 = s.inst2) (h3 : t.inst3 = s.inst3)
    (inst : BitVec 2) : t.slot? inst = s.slot? inst := by
  simp [State.slot?, h1, h2, h3]

end Sys2Proof.Machine
end

