-- ==== Sys2Proof/Laws/Engine.lean ====
section
/-! SUPPORT. What an engine step can do (43_des.md R213, R214). -/

namespace Sys2Proof.Machine

/-- An engine step that answers a next state performed one round of the current pass and then went on to the next round,
handed over to the next pass, or completed. -/
theorem engineStep_cases {s t : State} (h : engineStep s = .next t) :
    ∃ cd0 dir, currentPass s = some (cd0, dir) ∧
      ((s.seq.rnd < 15 ∧ t = countRound (performRound cd0 dir s)) ∨
        (¬ s.seq.rnd < 15 ∧ s.seq.pass.toNat < npass s.seq.curop ∧
          t = handOver (joinHalves ((performRound cd0 dir s).l, (performRound cd0 dir s).r)) (performRound cd0 dir s)) ∨
        (¬ s.seq.rnd < 15 ∧ ¬ s.seq.pass.toNat < npass s.seq.curop ∧
          t = finish (joinHalves ((performRound cd0 dir s).l, (performRound cd0 dir s).r)) (performRound cd0 dir s))) := by
  unfold engineStep at h
  split at h
  · rename_i cd0 dir hp
    refine ⟨cd0, dir, hp, ?_⟩
    injection h with h
    subst h
    unfold advance
    rw [performRound_seq]
    by_cases hr : s.seq.rnd < 15
    · exact .inl ⟨hr, if_pos hr⟩
    · rw [if_neg hr]
      by_cases hn : s.seq.pass.toNat < npass s.seq.curop
      · exact .inr (.inl ⟨hr, hn, if_pos hn⟩)
      · exact .inr (.inr ⟨hr, hn, if_neg hn⟩)
  · cases h

/-- Where the sequencer names a pass, the engine step answers a next state. -/
theorem engineStep_of_currentPass {s : State} {cd0 : BitVec 56} {dir : Dir} (h : currentPass s = some (cd0, dir)) :
    engineStep s = .next (advance (performRound cd0 dir s)) := by
  unfold engineStep; rw [h]

/-- The state after a round, in the two halves as one pair. -/
theorem performRound_halves (cd0 : BitVec 56) (dir : Dir) (s : State) :
    ((performRound cd0 dir s).l, (performRound cd0 dir s).r) =
      feistelRound (roundKey cd0 (roundIndex dir s.seq.rnd)) (s.l, s.r) := rfl

end Sys2Proof.Machine
end

