-- ==== Sys2Proof/Laws/Agents.lean ====
section
/-! SUPPORT. What a transition can do: the register map, host transactions and whose turn it is (10_state.md R32; 20_memory.md R73 to R75; 00_scope.md R20). -/

namespace Sys2Proof.Machine

/-- The map gives a register back at its offset (10_state.md R32). -/
@[simp] theorem regAt_offset (r : Reg) : regAt r.offset = some r := by cases r <;> decide

/-- The register at an offset has that offset. -/
theorem offset_of_regAt {off : Offset} {r : Reg} (h : regAt off = some r) : r.offset = off := by
  have := List.find?_some h
  simpa using this

/-- Registers stand at multiples of 4 (20_memory.md R70). -/
@[simp] theorem aligned_offset (r : Reg) : aligned r.offset = true := by cases r <;> decide

/-- A word read of a register is legal (20_memory.md R72). -/
@[simp] theorem legalRead_offset (r : Reg) : legalRead r.offset .word = some r := by
  simp [legalRead, AccessSize.bytes]

/-- Only word accesses are legal (20_memory.md R72). -/
theorem size_of_legalRead {off : Offset} {size : AccessSize} {r : Reg} (h : legalRead off size = some r) :
    size = .word ∧ aligned off = true ∧ regAt off = some r := by
  unfold legalRead at h
  split at h
  · rename_i hc
    refine ⟨?_, hc.2, h⟩
    cases size <;> simp_all [AccessSize.bytes]
  · cases h

/-- A legal read changes nothing but the host's record of what it read (20_memory.md R73). -/
theorem memRead_legal {off : Offset} {size : AccessSize} {s : State} {r : Reg} (h : legalRead off size = some r) :
    memRead off size s = { s with reads := .word (r.value s) :: s.reads } := by
  simp [memRead, readData, h]

/-- An illegal read records an access error and returns 0 (20_memory.md R75). -/
theorem memRead_illegal {off : Offset} {size : AccessSize} {s : State} (h : legalRead off size = none) :
    memRead off size s = { raiseBadAccess off size false s with reads := BusData.zero size :: s.reads } := by
  simp [memRead, readData, h]

/-- A read changes at most the error record and the host's record of what it read. -/
theorem memRead_eq (off : Offset) (size : AccessSize) (s : State) :
    memRead off size s =
      { s with error := (memRead off size s).error, reads := (memRead off size s).reads } := by
  cases h : legalRead off size with
  | some r => rw [memRead_legal h]
  | none => rw [memRead_illegal h, raiseBadAccess, raise_eq]

/-- What a legal read returns (20_memory.md R73). -/
@[simp] theorem readData_offset (r : Reg) (s : State) : readData r.offset .word s = .word (r.value s) := by
  simp [readData]

/-- A word write of a register that is not read-only is legal (20_memory.md R72, R74). -/
theorem memWrite_offset (r : Reg) (w : Word) (s : State) (h : r.access ≠ .ro) :
    memWrite r.offset (.word w) s = writeReg r w s := by
  have : legalWrite r.offset (BusData.word w).size = some r := by
    show (legalRead r.offset .word).filter _ = _
    rw [legalRead_offset, Option.filter_some, if_pos (by simpa using h)]
  unfold memWrite
  rw [this]

/-- An illegal write raises an access error and nothing else (20_memory.md R75). -/
theorem memWrite_illegal {off : Offset} {data : BusData} {s : State} (h : legalWrite off data.size = none) :
    memWrite off data s = .next (raiseBadAccess off data.size true s) := by
  unfold memWrite; rw [h]

/-- A write either raises an access error or is a legal write of a word to a register (20_memory.md R74, R75). -/
theorem memWrite_cases (off : Offset) (data : BusData) (s : State) :
    memWrite off data s = .next (raiseBadAccess off data.size true s) ∨
      ∃ r w, data = .word w ∧ legalWrite off .word = some r ∧ memWrite off data s = writeReg r w s := by
  unfold memWrite
  split
  · exact .inr ⟨_, _, rfl, ‹_›, rfl⟩
  · exact .inl rfl

/-- A submission always answers a next state: an error, or the effect of an accepted command. -/
theorem submitCommand_cases (w : Word) (s : State) :
    (∃ code info, submitCommand w s = .next (raise code info s)) ∨
      (∃ i, decode w = .ok i ∧ commandCheck i s = none ∧ submitCommand w s = .next (commandEffect i s)) := by
  unfold submitCommand
  cases hd : decode w with
  | bad code => exact .inl ⟨code, w, rfl⟩
  | ok i =>
    obtain ⟨code, _, he⟩ | ⟨hc, he⟩ := exec_next i s
    · exact .inl ⟨code, encode i, he⟩
    · exact .inr ⟨i, rfl, hc, he⟩

/-- The turn taken off the schedule leaves the engine as it is. -/
theorem nextTurn_snd (s : State) : (nextTurn s).2 = { s with sched := s.sched.tail } := by
  unfold nextTurn
  split
  · rename_i h; simp [h]
  · rename_i h; rw [h, List.tail_nil, ← h]

/-- With a turn fixed, that turn is taken. -/
theorem nextTurn_cons {s : State} {t : Turn} {rest : List Turn} (h : s.sched = t :: rest) :
    nextTurn s = (t, { s with sched := rest }) := by
  unfold nextTurn; simp [h]

/-- With no turn fixed, the engine moves while it is busy and the host otherwise (log 2). -/
theorem nextTurn_nil {s : State} (h : s.sched = []) :
    nextTurn s = (if s.busy then .engine else .host, s) := by
  unfold nextTurn; simp [h]

/-- What one host transition can be. -/
theorem hostTurn_cases (s : State) :
    (s.host = [] ∧ hostTurn s = .next s) ∨
      (∃ off size rest, s.host = .read off size :: rest ∧ hostTurn s = .next (memRead off size { s with host := rest })) ∨
      (∃ off data rest, s.host = .write off data :: rest ∧ hostTurn s = memWrite off data { s with host := rest }) ∨
      (∃ off mask val rest, s.host = .poll off mask val :: rest ∧
        hostTurn s = .next (memRead off .word
          (if polledWord off s &&& mask = val then { s with host := rest } else s))) := by
  unfold hostTurn
  cases h : s.host with
  | nil => exact .inl ⟨rfl, rfl⟩
  | cons x rest =>
    cases x with
    | read off size => exact .inr (.inl ⟨off, size, rest, rfl, rfl⟩)
    | write off data => exact .inr (.inr (.inl ⟨off, data, rest, rfl, rfl⟩))
    | poll off mask val =>
      refine .inr (.inr (.inr ⟨off, mask, val, rest, rfl, ?_⟩))
      dsimp only
      split <;> rfl

end Sys2Proof.Machine
end

