-- ==== Sys2Proof/Laws/Bits.lean ====
section
/-! SUPPORT. Bit-by-bit laws of the cipher vector primitives (00_scope.md R15, R16). -/

namespace Sys2Proof.Machine

/-- Two vectors with the same bits are equal. -/
theorem bits_ext {n : Nat} {v w : BitVec n} (h : ∀ i, i < n → bit v i = bit w i) : v = w :=
  BitVec.eq_of_getMsbD_eq h

theorem natOfBits_foldl (bs : List Bool) (acc : Nat) :
    bs.foldl (fun acc b => 2 * acc + b.toNat) acc = acc * 2 ^ bs.length + natOfBits bs := by
  induction bs generalizing acc with
  | nil => simp [natOfBits]
  | cons b bs ih =>
    simp only [natOfBits, List.foldl_cons, List.length_cons] at *
    rw [ih, ih (2 * 0 + b.toNat)]
    ring

theorem natOfBits_cons (b : Bool) (bs : List Bool) :
    natOfBits (b :: bs) = b.toNat * 2 ^ bs.length + natOfBits bs := by
  rw [natOfBits, List.foldl_cons, natOfBits_foldl]; simp

theorem natOfBits_lt (bs : List Bool) : natOfBits bs < 2 ^ bs.length := by
  induction bs with
  | nil => simp [natOfBits]
  | cons b bs ih =>
    rw [natOfBits_cons, List.length_cons, pow_succ]
    have := b.toNat_lt
    nlinarith

/-- The bit of weight 2^(length - 1 - i) of the number is the list's i-th bit. -/
theorem natOfBits_testBit (bs : List Bool) (i : Nat) (h : i < bs.length) :
    (natOfBits bs).testBit (bs.length - 1 - i) = bs.getD i false := by
  induction bs generalizing i with
  | nil => simp at h
  | cons b bs ih =>
    have hlt := natOfBits_lt bs
    rw [natOfBits_cons, Nat.mul_comm]
    cases i with
    | zero =>
      simp only [List.length_cons, Nat.add_sub_cancel, Nat.sub_zero, List.getD_cons_zero]
      rw [Nat.testBit_two_pow_mul_add _ hlt]
      cases b <;> simp
    | succ j =>
      simp only [List.length_cons, List.getD_cons_succ] at *
      rw [Nat.testBit_two_pow_mul_add _ hlt]
      have hj : bs.length + 1 - 1 - (j + 1) < bs.length := by omega
      simp only [hj, if_true]
      rw [← ih j (by omega)]
      congr 1
      omega

/-- `permute(T, v).bit(i) = v.bit(T[i] - 1)` (00_scope.md R16). -/
theorem bit_permute {n m : Nat} (table : List Nat) (v : BitVec n) (hm : table.length = m) (i : Nat) (hi : i < m) :
    bit (permute m table v) i = bit v (table.getD i 0 - 1) := by
  subst hm
  have hlen : (table.map fun t => bit v (t - 1)).length = table.length := by simp
  have hlt := natOfBits_lt (table.map fun t => bit v (t - 1))
  rw [hlen] at hlt
  have ht := natOfBits_testBit (table.map fun t => bit v (t - 1)) i (by simpa using hi)
  rw [hlen] at ht
  unfold bit permute
  rw [BitVec.getMsbD_eq_getLsbD]
  simp only [hi, decide_true, Bool.true_and]
  rw [BitVec.getLsbD_ofNat, ht]
  simp [bit, List.getD_eq_getElem?_getD, hi]
  omega

/-- `(v.slice(a, a + k)).bit(i) = v.bit(a + i)` (00_scope.md R16). -/
theorem bit_slice {n : Nat} (v : BitVec n) (a k i : Nat) (hk : a + k ≤ n) (hi : i < k) :
    bit (slice v a k) i = bit v (a + i) := by
  unfold bit slice
  rw [BitVec.getMsbD_eq_getLsbD, BitVec.getMsbD_eq_getLsbD, BitVec.getLsbD_extractLsb']
  have h1 : a + i < n := by omega
  have h2 : k - 1 - i < k := by omega
  simp only [hi, h1, h2, decide_true, Bool.true_and]
  congr 1
  omega

/-- The indices of `a ++ b`: a's first, then b's (00_scope.md R16). -/
theorem bit_append {n m : Nat} (a : BitVec n) (b : BitVec m) (i : Nat) :
    bit (a ++ b) i = if i < n then bit a i else bit b (i - n) := by
  unfold bit
  rw [BitVec.getMsbD_append]
  split <;> split <;> first | rfl | omega

/-- `xor` is bit by bit (00_scope.md R16). -/
theorem bit_xor {n : Nat} (a b : BitVec n) (i : Nat) : bit (a ^^^ b) i = (bit a i ^^ bit b i) := by
  unfold bit; simp

/-- `rotl(v, s).bit(i) = v.bit((i + s) mod n)` (00_scope.md R16). -/
theorem bit_rotl {n : Nat} (v : BitVec n) (s i : Nat) (hi : i < n) : bit (rotl v s) i = bit v ((i + s) % n) := by
  unfold bit rotl
  rw [BitVec.getMsbD_rotateLeft]
  simp [hi, Nat.add_comm]

/-- The two halves of a block, joined, are the block. -/
theorem slice_append_slice (v : BitVec 64) : slice v 0 32 ++ slice v 32 32 = v := by
  apply bits_ext
  intro i hi
  rw [bit_append]
  split
  · rw [bit_slice _ _ _ _ (by omega) (by omega), Nat.zero_add]
  · rw [bit_slice _ _ _ _ (by omega) (by omega)]; congr 1; omega

/-- The first half of two joined half-blocks. -/
@[simp] theorem slice_append_left (a b : BitVec 32) : slice (a ++ b) 0 32 = a := by
  apply bits_ext
  intro i hi
  rw [bit_slice _ _ _ _ (by omega) hi, bit_append]
  simp [hi]

/-- The second half of two joined half-blocks. -/
@[simp] theorem slice_append_right (a b : BitVec 32) : slice (a ++ b) 32 32 = b := by
  apply bits_ext
  intro i hi
  rw [bit_slice _ _ _ _ (by omega) hi, bit_append]
  simp

end Sys2Proof.Machine
end

