-- ==== Sys2Proof/Laws/Driver.lean ====
section
/-! SUPPORT. The driver tells a rejected command from an accepted one (70_reset_and_hazards.md R353; log 14). -/

namespace Sys2Proof.Machine

/-- The STATUS word reports a violation exactly while an error is recorded, with its code (10_state.md R36). -/
theorem reportedViolation_statusWord (s : State) :
    reportedViolation (statusWord s) = if s.error.err then some s.error.code else none := by
  have hbit : (statusWord s).getLsbD 2 = s.error.err := by simp [statusWord, placeField]
  have hcode : (statusWord s).extractLsb' 8 4 = s.error.code := by
    apply BitVec.eq_of_getLsbD_eq
    intro i hi
    interval_cases i <;> simp [statusWord, placeField]
  unfold reportedViolation
  rw [hbit, hcode]

/-- The acknowledgement that begins a call leaves no error recorded (60_exceptions.md R308). -/
theorem ackFlags_err (s : State) : (statusW1c 0x0000000E s).error.err = false := by simp [statusW1c]

/-- With no error recorded before it, a rejected command is reported, with its own code. -/
theorem reportedViolation_rejected (code : ErrCode) (w : Word) (s : State) (h : s.error.err = false) :
    reportedViolation (statusWord (raise code w s)) = some code.toBits := by
  rw [reportedViolation_statusWord, raise_first _ _ _ h]; rfl

/-- With no error recorded before it, an accepted command is not reported, whatever was rejected earlier. -/
theorem reportedViolation_accepted (i : Instr) (s : State) (h : s.error.err = false) :
    reportedViolation (statusWord (commandEffect i s)) = none := by
  rw [reportedViolation_statusWord, commandEffect_error, h]; rfl

end Sys2Proof.Machine
end

