-- ==== Sys2Proof/Laws/PerInstr.lean ====
section
/-! SUPPORT. The family of per-instruction facts named in LAWS.json: the fields of every command's word. -/

namespace Sys2Proof.Laws.WordFields

/-- The word of a command carries its OP, INST and LEN in their places and 0 in both reserved fields
(30_encoding.md R101, R102). -/
def Statement (i : Instr) : Prop :=
  fieldOp (encode i) = i.op ∧ fieldInst (encode i) = i.instField ∧ fieldLen (encode i) = i.lenField ∧
    fieldRsv0 (encode i) = 0 ∧ fieldRsv1 (encode i) = 0

/-- Any three fields, encoded, are read back. -/
theorem of_fields (i : Instr) : Statement i :=
  ⟨fieldOp_encodeFields _ _ _, fieldInst_encodeFields _ _ _, fieldLen_encodeFields _ _ _,
    fieldRsv0_encodeFields _ _ _, fieldRsv1_encodeFields _ _ _⟩

theorem nop : Statement .nop := of_fields _
theorem desSetkey (inst : BitVec 2) (len : BitVec 5) : Statement (.desSetkey inst len) := of_fields _
theorem tdeaSetkey (len : BitVec 5) : Statement (.tdeaSetkey len) := of_fields _
theorem desEnc (inst : BitVec 2) (len : BitVec 5) : Statement (.desEnc inst len) := of_fields _
theorem desDec (inst : BitVec 2) (len : BitVec 5) : Statement (.desDec inst len) := of_fields _
theorem tdeaEnc (len : BitVec 5) : Statement (.tdeaEnc len) := of_fields _
theorem tdeaDec (len : BitVec 5) : Statement (.tdeaDec len) := of_fields _
theorem clear : Statement .clear := of_fields _

end Sys2Proof.Laws.WordFields
end

