-- ==== Sys2Proof/Laws/Steps.lean ====
section
/-! SUPPORT. Everything one step can do, said once (00_scope.md R20; 20_memory.md R73 to R75; 43_des.md R213; 60_exceptions.md R303). -/

namespace Sys2Proof.Machine

/-- What an error leaves in the record depends on the record before it only. -/
theorem raise_error_congr (code : ErrCode) (info : Word) {s t : State} (h : s.error = t.error) :
    (raise code info s).error = (raise code info t).error := by
  unfold raise
  rw [h]
  split <;> rfl

/-- A record after a host transaction that reached no register with an effect: as it was, or with an error raised. -/
def RecordAfter (s : State) (e : ErrorRecord) : Prop := e = s.error ∨ ∃ code info, e = (raise code info s).error

/-- A read changes the host's record of what it read and may raise an error. -/
theorem memRead_effect (off : Offset) (size : AccessSize) (s : State) :
    ∃ reads e, memRead off size s = { s with reads := reads, error := e } ∧ RecordAfter s e := by
  cases hl : legalRead off size with
  | some r => exact ⟨_, _, memRead_legal hl, .inl rfl⟩
  | none =>
    refine ⟨BusData.zero size :: s.reads, _, ?_, .inr ⟨.badAccess, accessInfo off size false, rfl⟩⟩
    rw [memRead_illegal hl, raiseBadAccess, raise_eq]

/-- A word write that is legal names the register it reaches. -/
theorem offset_of_legalWrite {off : Offset} {r : Reg} (h : legalWrite off .word = some r) : r.offset = off := by
  unfold legalWrite at h
  cases hl : legalRead off .word with
  | none => rw [hl] at h; cases h
  | some r' =>
    rw [hl, Option.filter_some] at h
    split at h
    · cases h; exact offset_of_regAt (size_of_legalRead hl).2.2
    · cases h

/-- A host turn that answers a next state does one of three things to the engine: nothing, or an error in its record; the
effect of an accepted command, whose word it wrote to CMD; a write of a word to another register. -/
theorem hostTurn_effect {s t : State} (h : hostTurn s = .next t) :
    (∃ host reads e, t = { s with host := host, reads := reads, error := e } ∧ RecordAfter s e) ∨
    (∃ w i rest, s.host = .write 0x08 (.word w) :: rest ∧ decode w = .ok i ∧ commandCheck i s = none ∧
      t = { commandEffect i s with host := rest }) ∨
    (∃ r w rest, s.host = .write r.offset (.word w) :: rest ∧ r ≠ .cmd ∧
      writeReg r w { s with host := rest } = .next t) := by
  obtain ⟨_, he⟩ | ⟨off, size, rest, _, he⟩ | ⟨off, data, rest, hh, he⟩ | ⟨off, mask, val, rest, _, he⟩ := hostTurn_cases s <;>
    rw [he] at h
  · injection h with h
    exact .inl ⟨s.host, s.reads, s.error, h.symm, .inl rfl⟩
  · injection h with h
    obtain ⟨reads, e, hm, hr⟩ := memRead_effect off size { s with host := rest }
    refine .inl ⟨rest, reads, e, h.symm.trans hm, hr.imp id ?_⟩
    rintro ⟨code, info, rfl⟩
    exact ⟨code, info, raise_error_congr _ _ rfl⟩
  · obtain hw | ⟨r, w, rfl, hl, hw⟩ := memWrite_cases off data { s with host := rest } <;> rw [hw] at h
    · injection h with h
      refine .inl ⟨rest, s.reads, _, h.symm.trans (raise_eq _ _ _), .inr ⟨_, _, raise_error_congr _ _ rfl⟩⟩
    · obtain rfl := offset_of_legalWrite hl
      by_cases hc : r = .cmd
      · subst hc
        obtain ⟨code, info, hs⟩ | ⟨i, hd, hk, hs⟩ := submitCommand_cases w { s with host := rest } <;>
          rw [show writeReg .cmd w { s with host := rest } = submitCommand w { s with host := rest } from rfl, hs] at h <;>
          injection h with h
        · refine .inl ⟨rest, s.reads, _, h.symm.trans (raise_eq _ _ _), .inr ⟨_, _, raise_error_congr _ _ rfl⟩⟩
        · subst h
          exact .inr (.inl ⟨w, i, rest, hh, hd, by cases i <;> exact hk, by cases i <;> rfl⟩)
      · exact .inr (.inr ⟨r, w, rest, hh, hc, h⟩)
  · injection h with h
    have hu : (if polledWord off s &&& mask = val then { s with host := rest } else s) =
        { s with host := if polledWord off s &&& mask = val then rest else s.host } := by split <;> rfl
    rw [hu] at h
    obtain ⟨reads, e, hm, hr⟩ := memRead_effect off .word
      { s with host := if polledWord off s &&& mask = val then rest else s.host }
    refine .inl ⟨_, reads, e, h.symm.trans hm, hr.imp id ?_⟩
    rintro ⟨code, info, rfl⟩
    exact ⟨code, info, raise_error_congr _ _ rfl⟩

/-- The state a step acts on: the turn taken is off the schedule. -/
def State.turnTaken (s : State) : State := { s with sched := s.sched.tail }

/-- One step is a reset, an engine step, an engine turn that passes, or a host turn. -/
theorem step_cases (s : State) :
    (s.resetNext = true ∧ step s = .next (applyReset s.turnTaken)) ∨
    (s.engineStepNext = true ∧ s.busy = true ∧ step s = engineStep s.turnTaken) ∨
    (s.busy = false ∧ s.engineStepNext = false ∧ step s = .next s.turnTaken) ∨
    ((nextTurn s).1 = .host ∧ step s = hostTurn s.turnTaken) := by
  have hs : step s = agentTurn (nextTurn s).1 s.turnTaken := by
    show agentTurn (nextTurn s).1 (nextTurn s).2 = _
    rw [nextTurn_snd]; rfl
  rw [hs]
  unfold State.resetNext State.engineStepNext
  cases (nextTurn s).1 with
  | host => exact .inr (.inr (.inr ⟨rfl, rfl⟩))
  | reset => exact .inl ⟨rfl, rfl⟩
  | engine =>
    cases hb : s.busy with
    | true => exact .inr (.inl ⟨rfl, rfl, if_pos hb⟩)
    | false => exact .inr (.inr (.inl ⟨rfl, rfl, if_neg (by simp [State.turnTaken, hb])⟩))

/-- A write of a word to another register than CMD changes CTRL, KB, DIN and RKSEL at most, or clears flags. -/
theorem writeReg_effect {r : Reg} {w : Word} {s t : State} (hr : r ≠ .cmd) (h : writeReg r w s = .next t) :
    (∃ c kb d k, t = { s with ctrl := c, kb := kb, din := d, rksel := k }) ∨ (r = .status ∧ t = statusW1c w s) := by
  cases r <;> simp only [writeReg] at h <;> first | contradiction | (injection h with h; subst h)
  case status => exact .inr ⟨rfl, rfl⟩
  all_goals exact .inl ⟨_, _, _, _, rfl⟩

/-- A command accepted while busy is CLEAR (60_exceptions.md R302). -/
theorem idle_of_accepted {i : Instr} {s : State} (h : commandCheck i s = none) (hc : i ≠ .clear) : s.busy = false := by
  cases hb : s.busy with
  | false => rfl
  | true => rw [commandCheck_busy i s hb hc] at h; cases h

/-- Only one word decodes to CLEAR (30_encoding.md R106). -/
theorem clear_word {w : Word} (h : decode w = .ok .clear) : w = encode .clear := by
  unfold decode at h
  split at h
  · cases h
  · rename_i hr
    push Not at hr
    rw [← encodeFields_fields w hr.1 hr.2]
    unfold decodeFields at h
    repeat' split at h
    all_goals first | (cases h; done) | simp_all [encode, Instr.op, Instr.instField, Instr.lenField]

/-- A step that is neither an engine step, nor CLEAR, nor reset leaves DOUT, and leaves a run in progress as it is. -/
theorem step_undisturbed {s t : State} (h : step s = .next t) (hu : s.undisturbedNext = true)
    (he : s.engineStepNext = false) :
    t.dout = s.dout ∧ (s.busy = true → t.busy = true ∧ t.seq = s.seq ∧ t.inst1 = s.inst1 ∧ t.inst2 = s.inst2 ∧
      t.inst3 = s.inst3 ∧ t.l = s.l ∧ t.r = s.r) := by
  have hu' : s.resetNext = false ∧ s.clearNext = false := by simpa [State.undisturbedNext] using hu
  obtain ⟨hr, _⟩ | ⟨hen, _, _⟩ | ⟨_, _, hs⟩ | ⟨ht, hs⟩ := step_cases s
  · rw [hu'.1] at hr; cases hr
  · rw [he] at hen; cases hen
  · rw [hs] at h
    injection h with h
    subst h
    exact ⟨rfl, fun hb => ⟨hb, rfl, rfl, rfl, rfl, rfl, rfl⟩⟩
  · rw [hs] at h
    obtain ⟨host, reads, e, rfl, _⟩ | ⟨w, i, rest, hh, hd, hk, rfl⟩ | ⟨r, w, rest, _, hc, hw⟩ := hostTurn_effect h
    · exact ⟨rfl, fun hb => ⟨hb, rfl, rfl, rfl, rfl, rfl, rfl⟩⟩
    · have hi : i ≠ .clear := by
        rintro rfl
        have hcl : s.clearNext = true := by
          unfold State.clearNext
          rw [ht, show s.host = _ from hh, clear_word hd]
          rfl
        rw [hu'.2] at hcl; cases hcl
      have hb : s.busy = false := idle_of_accepted (s := s.turnTaken) hk hi
      refine ⟨?_, fun h => by rw [hb] at h; cases h⟩
      cases i <;> first | rfl | contradiction
    · obtain ⟨c, kb, d, k, rfl⟩ | ⟨_, rfl⟩ := writeReg_effect hc hw <;>
        exact ⟨rfl, fun hb => ⟨hb, rfl, rfl, rfl, rfl, rfl, rfl⟩⟩

/-- One step of a machine, then the rest of a run. -/
theorem machine_run_succ (M : Host.Core) (n : Nat) {s t : M.State} (h : M.step s = .next t) :
    M.run (n + 1) s = M.run n t := by
  simp only [Host.Core.run, h]

/-- One step, then the rest of a run. -/
theorem core_run_succ (n : Nat) {s t : State} (h : step s = .next t) : core.run (n + 1) s = core.run n t :=
  machine_run_succ core n h

/-- A run of no steps. -/
theorem core_run_zero (s : State) : core.run 0 s = .next s := rfl

end Sys2Proof.Machine
end

