-- ==== Sys2Proof/Laws/Run.lean ====
section
/-! SUPPORT. The run in progress: what one engine step does to the block the run will leave in DOUT and to the number of engine steps it still takes (43_des.md R213, R214; 44_tdea.md R244). -/

namespace Sys2Proof.Machine

/-- The sequencer names a pass of a command that runs, as clauses (3) to (5) of 10_state.md R53 say of a busy engine. -/
structure State.RunShape (s : State) : Prop where
  passNonzero : s.seq.pass ≠ 0
  shape : ((s.seq.curop = 3 ∨ s.seq.curop = 4) ∧ s.seq.pass = 1 ∧ s.seq.curinst ≠ 0) ∨
    ((s.seq.curop = 5 ∨ s.seq.curop = 6) ∧ s.seq.curinst = 0)

/-- A busy state that meets the invariants has such a sequencer. -/
theorem State.Inv.runShape {s : State} (hi : s.Inv) (hb : s.busy = true) : s.RunShape := by
  have hp : s.seq.pass ≠ 0 := by
    intro h
    have := hi.idleIffPass.2 h
    rw [hb] at this
    cases this
  refine ⟨hp, ?_⟩
  obtain h | h | h | h := hi.busyOp hb
  · exact .inl ⟨.inl h, (hi.desRun hb (.inl h)).1, (hi.desRun hb (.inl h)).2.1⟩
  · exact .inl ⟨.inr h, (hi.desRun hb (.inr h)).1, (hi.desRun hb (.inr h)).2.1⟩
  · exact .inr ⟨.inl h, (hi.tdeaRun hb (.inl h)).2.1⟩
  · exact .inr ⟨.inr h, (hi.tdeaRun hb (.inr h)).2.1⟩

theorem pass_cases {p : BitVec 2} (h : p ≠ 0) : p = 1 ∨ p = 2 ∨ p = 3 := by revert p; decide

/-- In such a state the current pass is the one PASS counts to, and every pass has its key. -/
theorem State.RunShape.passes_keyed {s : State} (h : s.RunShape) :
    (keyedPasses s).length = npass s.seq.curop ∧ s.seq.pass.toNat ≤ npass s.seq.curop ∧
      currentPass s = (keyedPasses s)[s.seq.pass.toNat - 1]? ∧ ∃ cd0 dir, currentPass s = some (cd0, dir) := by
  obtain ⟨h0, ⟨h3 | h3, hp, hi⟩ | ⟨h3 | h3, hi⟩⟩ := h
  · obtain ⟨k, hk⟩ := slot?_isSome s _ hi
    refine ⟨?_, ?_, ?_, k.cd0, .enc, ?_⟩ <;> simp [keyedPasses, currentPass, npass, passes, h3, hp, hk]
  · obtain ⟨k, hk⟩ := slot?_isSome s _ hi
    refine ⟨?_, ?_, ?_, k.cd0, .dec, ?_⟩ <;> simp [keyedPasses, currentPass, npass, passes, h3, hp, hk]
  all_goals
    have e1 := slot?_one s
    have e2 := slot?_two s
    have e3 := slot?_three s
    simp only [BitVec.ofNat_eq_ofNat] at e1 e2 e3
    obtain hp | hp | hp := pass_cases h0
  all_goals
    refine ⟨?_, ?_, ?_, ?_⟩
  all_goals simp [keyedPasses, currentPass, npass, passes, h3, hp, e1, e2, e3]

/-- The round order from a position on: the round of that position, then the rest (43_des.md R211, R213). -/
theorem roundOrder_drop (dir : Dir) (rnd : BitVec 4) :
    (roundOrder dir).drop rnd.toNat = roundIndex dir rnd :: (roundOrder dir).drop (rnd.toNat + 1) := by
  cases dir <;> revert rnd <;> decide

theorem roundOrder_length (dir : Dir) : (roundOrder dir).length = 16 := by cases dir <;> rfl

/-- The halves of a block, joined again. -/
theorem block_ofBlock (x : BitVec 64) : (BlockWords.ofBlock x).hi ++ (BlockWords.ofBlock x).lo = x := slice_append_slice x

theorem keyedPasses_congr {s t : State} (h1 : t.inst1 = s.inst1) (h2 : t.inst2 = s.inst2) (h3 : t.inst3 = s.inst3)
    (ho : t.seq.curop = s.seq.curop) (hi : t.seq.curinst = s.seq.curinst) : keyedPasses t = keyedPasses s := by
  unfold keyedPasses
  rw [ho, hi]
  simp only [slot?_congr h1 h2 h3]

/-- One engine step takes one from the steps a run still needs; while the run goes on it keeps the block the run will leave
and DOUT, and when it completes that block is in DOUT. -/
theorem engineStep_progress {s t : State} (hs : s.RunShape) (hb : s.busy = true) (h : engineStep s = .next t) :
    remainingSteps s = remainingSteps t + 1 ∧
      (t.busy = true → t.RunShape ∧ runResult t = runResult s ∧ t.dout = s.dout) ∧
      (t.busy = false → t.done = true ∧ t.dout.hi ++ t.dout.lo = runResult s ∧ remainingSteps s = 1) := by
  obtain ⟨hlen, hle, hcur, -⟩ := hs.passes_keyed
  obtain ⟨cd0, dir, hp, hcase⟩ := engineStep_cases h
  have hrl := s.seq.rnd.isLt
  have hrun : runResult s = ((keyedPasses s).drop s.seq.pass.toNat).foldl (fun x p => des p.2 p.1 x)
      (joinHalves (desRounds cd0 ((roundOrder dir).drop (s.seq.rnd.toNat + 1))
        ((performRound cd0 dir s).l, (performRound cd0 dir s).r))) := by
    unfold runResult
    rw [hp]
    dsimp only
    rw [roundOrder_drop]
    rfl
  obtain ⟨hr, rfl⟩ | ⟨hr, hn, rfl⟩ | ⟨hr, hn, rfl⟩ := hcase
  · have hr' : s.seq.rnd.toNat < 15 := hr
    have hadd : (s.seq.rnd + 1).toNat = s.seq.rnd.toNat + 1 := by
      rw [BitVec.toNat_add]; simp; omega
    refine ⟨?_, fun _ => ⟨⟨hs.passNonzero, hs.shape⟩, ?_, rfl⟩, fun hf => ?_⟩
    · show (if s.busy then _ else _) = (if s.busy then 16 * (npass s.seq.curop - s.seq.pass.toNat) + (16 - (s.seq.rnd + 1).toNat) else 0) + 1
      rw [if_pos hb, if_pos hb, hadd]
      omega
    · rw [hrun]
      unfold runResult
      rw [show currentPass (countRound (performRound cd0 dir s)) = some (cd0, dir) from hp]
      dsimp only
      rw [show (countRound (performRound cd0 dir s)).seq.rnd = s.seq.rnd + 1 from rfl, hadd]
      rfl
    · rw [show (countRound (performRound cd0 dir s)).busy = s.busy from rfl, hb] at hf; cases hf
  · have hr15 : s.seq.rnd.toNat = 15 := by
      have : ¬ s.seq.rnd.toNat < 15 := hr
      omega
    have hdrop : (roundOrder dir).drop (s.seq.rnd.toNat + 1) = [] := by
      rw [hr15]; exact List.drop_eq_nil_of_le (by rw [roundOrder_length])
    have hn' : s.seq.pass.toNat < npass s.seq.curop := hn
    have hpl := s.seq.pass.isLt
    have hn3 : npass s.seq.curop ≤ 3 := by
      unfold npass passes
      repeat' split
      all_goals decide
    have hadd : (s.seq.pass + 1).toNat = s.seq.pass.toNat + 1 := by
      rw [BitVec.toNat_add]; simp; omega
    have hnz : s.seq.pass + 1 ≠ 0 := by
      intro h0
      rw [h0] at hadd
      simp at hadd
    have hshape : (handOver (joinHalves ((performRound cd0 dir s).l, (performRound cd0 dir s).r)) (performRound cd0 dir s)).RunShape := by
      refine ⟨hnz, ?_⟩
      obtain ⟨ho, hp1, -⟩ | h56 := hs.shape
      · exfalso
        rw [hp1] at hn'
        obtain ho | ho := ho <;> rw [ho] at hn' <;> exact absurd hn' (by decide)
      · exact .inr h56
    refine ⟨?_, fun _ => ⟨hshape, ?_, rfl⟩, fun hf => ?_⟩
    · show (if s.busy then _ else _) = (if s.busy then 16 * (npass s.seq.curop - (s.seq.pass + 1).toNat) + (16 - 0) else 0) + 1
      rw [if_pos hb, if_pos hb, hadd, hr15]
      omega
    · obtain ⟨-, -, hcur', cd, d, hsome⟩ := hshape.passes_keyed
      rw [hrun, hdrop]
      unfold runResult
      rw [hsome]
      have hk : keyedPasses (handOver (joinHalves ((performRound cd0 dir s).l, (performRound cd0 dir s).r)) (performRound cd0 dir s)) =
          keyedPasses s := keyedPasses_congr rfl rfl rfl rfl rfl
      rw [hsome, hk] at hcur'
      dsimp only
      rw [hk]
      rw [show (handOver (joinHalves ((performRound cd0 dir s).l, (performRound cd0 dir s).r)) (performRound cd0 dir s)).seq.pass =
        s.seq.pass + 1 from rfl, hadd] at hcur' ⊢
      rw [Nat.add_sub_cancel] at hcur'
      have htail : (keyedPasses s).drop s.seq.pass.toNat = (cd, d) :: (keyedPasses s).drop (s.seq.pass.toNat + 1) := by
        rw [List.drop_eq_getElem?_toList_append, ← hcur']
        rfl
      rw [htail, List.foldl_cons]
      unfold des
      rfl
    · rw [show (handOver (joinHalves ((performRound cd0 dir s).l, (performRound cd0 dir s).r)) (performRound cd0 dir s)).busy =
        s.busy from rfl, hb] at hf
      cases hf
  · have hr15 : s.seq.rnd.toNat = 15 := by
      have : ¬ s.seq.rnd.toNat < 15 := hr
      omega
    have hdrop : (roundOrder dir).drop (s.seq.rnd.toNat + 1) = [] := by
      rw [hr15]; exact List.drop_eq_nil_of_le (by rw [roundOrder_length])
    have hn' : ¬ s.seq.pass.toNat < npass s.seq.curop := hn
    have h1 : remainingSteps s = 1 := by
      unfold remainingSteps
      rw [if_pos hb, hr15]
      omega
    refine ⟨h1, fun hf => (by cases hf), fun _ => ⟨rfl, ?_, h1⟩⟩
    rw [hrun, hdrop, List.drop_eq_nil_of_le (by omega)]
    exact block_ofBlock _

end Sys2Proof.Machine
end

