-- ==== Sys2Proof/Laws/Tables.lean ====
section
/-! SUPPORT. The fixed tables are well formed, as lemmas about the constants (40_tables.md R130, R148). -/

namespace Sys2Proof.Machine

/-- No table is malformed (40_tables.md R148, 90_conflicts.md C4). -/
theorem tables_wellFormed : tablesWellFormed = true := by decide

/-! The output width of a table is its length (40_tables.md R130). -/

theorem ipTable_length : ipTable.length = 64 := by decide
theorem ipInvTable_length : ipInvTable.length = 64 := by decide
theorem pc1Table_length : pc1Table.length = 56 := by decide
theorem pc2Table_length : pc2Table.length = 48 := by decide
theorem eTable_length : eTable.length = 48 := by decide
theorem pTable_length : pTable.length = 32 := by decide

/-! Every entry of a table names a bit of its input (40_tables.md R130). -/

theorem ipTable_bounded : ∀ t ∈ ipTable, 1 ≤ t ∧ t ≤ 64 := by decide
theorem ipInvTable_bounded : ∀ t ∈ ipInvTable, 1 ≤ t ∧ t ≤ 64 := by decide
theorem pc1Table_bounded : ∀ t ∈ pc1Table, 1 ≤ t ∧ t ≤ 64 := by decide
theorem pc2Table_bounded : ∀ t ∈ pc2Table, 1 ≤ t ∧ t ≤ 56 := by decide
theorem eTable_bounded : ∀ t ∈ eTable, 1 ≤ t ∧ t ≤ 32 := by decide
theorem pTable_bounded : ∀ t ∈ pTable, 1 ≤ t ∧ t ≤ 32 := by decide

end Sys2Proof.Machine
end

