-- ==== Sys2Proof/Tests/Slice0.lean ====
section
/-! SUPPORT. Tests against the vectors of spec/95_test_vectors.md, whose ids the comments name, and, for each statement that has hypotheses, a witness that meets them. -/

namespace Sys2Proof.Tests

set_option Elab.async false

open Sys2Proof.Machine

/-! ## Helpers -/

/-- The state an outcome answers, or the reset state where it stops. -/
def after (o : Host.Outcome State Fault Refusal) : State :=
  match o with
  | .next t => t
  | .fault _ => State.reset
  | .refused _ => State.reset

/-- The outcome is a next state. -/
def isNext (o : Host.Outcome State Fault Refusal) : Bool :=
  match o with
  | .next _ => true
  | .fault _ => false
  | .refused _ => false

theorem exists_next {o : Host.Outcome State Fault Refusal} {p : State → Prop} (h : isNext o = true) (hp : p (after o)) :
    ∃ t, o = .next t ∧ p t := by
  cases o with
  | next t => exact ⟨t, rfl, hp⟩
  | fault r => cases h
  | refused r => cases h

/-- The state one step after the submission of a command word. -/
def submitted (w : Nat) (s : State) : State := after (step (s.withFetchWord 32 w))

/-- The state one host turn after a statement is placed. -/
def done1 (h : HostStmt) (s : State) : State := after (step { s with host := [h], sched := [.host] })

/-- Reset, with the key and the plaintext of KAT-1 loaded. -/
def loaded : State :=
  { State.reset with
    kb := { KeyBuffer.zero with kb0 := 0x13345779, kb1 := 0x9BBCDFF1 }
    din := { hi := 0x01234567, lo := 0x89ABCDEF } }

/-- `loaded` with the key bound to instance 1 and DONE acknowledged ("KV1 bound"). -/
def bound1 : State :=
  { loaded with
    inst1 := { cd0 := 0xF0CCAAF556678F, kv := true }
    seq := { loaded.seq with curop := 1 } }

/-- `bound1` with DES_ENC running, no engine step done. -/
def running1 : State := start 0x3 1 bound1

/-- KAT-1 with 15 engine steps done (row 14 of the trace). -/
def lastRound1 : State :=
  { running1 with seq := { running1.seq with rnd := 15 }, l := 0xC28C960D, r := 0x43423234 }

/-- The three keys of TD-1 in the key buffer and its plaintext in DIN. -/
def loaded3 : State :=
  { State.reset with
    kb := { kb0 := 0x01234567, kb1 := 0x89ABCDEF, kb2 := 0x23456789, kb3 := 0xABCDEF01, kb4 := 0x456789AB, kb5 := 0xCDEF0123 }
    din := { hi := 0x54686520, lo := 0x71756663 } }

/-- TD-1's keys bound. -/
def bound3 : State := bindAll loaded3.kb.seg0 loaded3.kb.seg1 loaded3.kb.seg2 loaded3

/-- `bound3` with TDEA_ENC running, no engine step done. -/
def running3 : State := start 0x5 0 bound3

/-- A TDEA run of `bound3` before the 16th round of a pass. -/
def lastRound3 (pass : BitVec 2) : State := { running3 with seq := { running3.seq with pass := pass, rnd := 15 } }

/-! ## Well-formed commands -/

theorem test_wellFormed_accepts :
    Instr.wellFormed (.desSetkey 1 8) = true ∧ Instr.wellFormed (.desEnc 3 8) = true ∧
    Instr.wellFormed (.tdeaSetkey 16) = true ∧ Instr.wellFormed (.tdeaEnc 8) = true ∧ Instr.wellFormed .clear = true := by
  decide

theorem test_wellFormed_refuses_instance_zero :
    Instr.wellFormed (.desSetkey 0 8) = false ∧ Instr.wellFormed (.desEnc 0 8) = false ∧
    Instr.wellFormed (.desDec 0 8) = false := by decide

theorem test_wellFormed_refuses_length_not_eight :
    Instr.wellFormed (.desSetkey 1 7) = false ∧ Instr.wellFormed (.desEnc 1 9) = false ∧
    Instr.wellFormed (.desDec 1 0) = false ∧ Instr.wellFormed (.tdeaEnc 16) = false ∧
    Instr.wellFormed (.tdeaDec 31) = false := by decide

theorem test_wellFormed_refuses_key_length :
    Instr.wellFormed (.tdeaSetkey 12) = false ∧ Instr.wellFormed (.tdeaSetkey 0) = false := by decide

/-! ## Decoding: words written out from 30_encoding.md R101, R102 -/

theorem test_decode_nop : decode 0b0000000000000000000_00000_00_00_0000 = .ok .nop := by decide
theorem test_decode_desSetkey : decode 0b0000000000000000000_01000_00_10_0001 = .ok (.desSetkey 2 8) := by decide
theorem test_decode_tdeaSetkey : decode 0b0000000000000000000_10000_00_00_0010 = .ok (.tdeaSetkey 16) := by decide
theorem test_decode_desEnc : decode 0b0000000000000000000_00111_00_01_0011 = .ok (.desEnc 1 7) := by decide
theorem test_decode_desDec : decode 0b0000000000000000000_01000_00_11_0100 = .ok (.desDec 3 8) := by decide
theorem test_decode_tdeaEnc : decode 0b0000000000000000000_11111_00_00_0101 = .ok (.tdeaEnc 31) := by decide
theorem test_decode_tdeaDec : decode 0b0000000000000000000_01001_00_00_0110 = .ok (.tdeaDec 9) := by decide
theorem test_decode_clear : decode 0b0000000000000000000_00000_00_00_0111 = .ok .clear := by decide

/-- ER-1 to ER-8 and the highest reserved bit. -/
theorem test_decode_rejects_reserved :
    decode 0x00000010 = .bad .badCmd ∧ decode 0x00002000 = .bad .badCmd ∧ decode 0x00000040 = .bad .badCmd ∧
    decode 0x00000008 = .bad .badCmd ∧ decode 0x0000000F = .bad .badCmd ∧ decode 0x00001812 = .bad .badCmd ∧
    decode 0x00000107 = .bad .badCmd ∧ decode 0x00000100 = .bad .badCmd ∧ decode 0x80000811 = .bad .badCmd := by decide

theorem test_decodeTableWord :
    decodeTableWord 32 0x00000823 = some (.desEnc 2 8) ∧ decodeTableWord 32 0x00000028 = none := by decide

/-! ## Commands, one step each from the vectors of sections 5 to 8 -/

/-- CT-1 -/
theorem test_nop : statusWord (submitted 0x00000000 State.reset) = 0x00000002 := by decide
/-- ER-8 -/
theorem test_nop_length :
    statusWord (submitted 0x00000100 State.reset) = 0x00000104 ∧
    (submitted 0x00000100 State.reset).error.info = 0x00000100 := by decide

/-- PR-1 row 4, KS-1 -/
theorem test_desSetkey :
    statusWord (submitted 0x00000811 loaded) = 0x00001012 ∧
    (submitted 0x00000811 loaded).inst1.cd0 = 0xF0CCAAF556678F := by decide +kernel
/-- ER-10 -/
theorem test_desSetkey_length :
    statusWord (submitted 0x00000711 State.reset) = 0x00000404 ∧
    (submitted 0x00000711 State.reset).error.info = 0x00000711 := by decide

/-- PR-2 row 4: K3 = K1 -/
theorem test_tdeaSetkey :
    statusWord (submitted 0x00001002 loaded3) = 0x00002072 ∧
    (submitted 0x00001002 loaded3).inst3 = KeySlot.ofKey 0x0123456789ABCDEF ∧
    (submitted 0x00001002 loaded3).inst2 = KeySlot.ofKey 0x23456789ABCDEF01 := by decide +kernel
/-- ER-12 -/
theorem test_tdeaSetkey_length : statusWord (submitted 0x00000C02 State.reset) = 0x00000404 := by decide

/-- ST-1, KAT-1 -/
theorem test_desEnc :
    statusWord (submitted 0x00000813 bound1) = 0x00013011 ∧
    (submitted 0x00000813 bound1).l = 0xCC00CCFF ∧ (submitted 0x00000813 bound1).r = 0xF0AAF0AA := by decide +kernel
/-- ER-15: BLOCKLEN before NOKEY -/
theorem test_desEnc_length : statusWord (submitted 0x00000013 State.reset) = 0x00000504 := by decide

/-- KAT-2 -/
theorem test_desDec :
    let s := { bound1 with din := { hi := 0x85E81354, lo := 0x0F0AB405 } }
    statusWord (submitted 0x00000814 s) = 0x00014011 ∧
    (submitted 0x00000814 s).l = 0x0A4CD995 ∧ (submitted 0x00000814 s).r = 0x43423234 := by decide +kernel
/-- ER-14 with DES_DEC: BADINST before BLOCKLEN -/
theorem test_desDec_instance : statusWord (submitted 0x00000004 State.reset) = 0x00000304 := by decide

/-- ST-2 -/
theorem test_tdeaEnc : statusWord (submitted 0x00000805 bound3) = 0x00015071 := by decide +kernel
/-- ER-18: one instance bound is not enough -/
theorem test_tdeaEnc_noKey : statusWord (submitted 0x00000805 bound1) = 0x00001614 := by decide

/-- PR-2 row 12 -/
theorem test_tdeaDec : statusWord (submitted 0x00000806 bound3) = 0x00016071 := by decide +kernel
/-- ER-19 -/
theorem test_tdeaDec_length : statusWord (submitted 0x00000906 bound1) = 0x00001514 := by decide

/-- CT-2 -/
theorem test_clear :
    let s := { bound1 with dout := { hi := 0x85E81354, lo := 0x0F0AB405 } }
    statusWord (submitted 0x00000007 s) = 0x00007002 ∧ (submitted 0x00000007 s).dout = { hi := 0, lo := 0 } ∧
    (submitted 0x00000007 s).kb = KeyBuffer.zero ∧ (submitted 0x00000007 s).din = loaded.din := by decide
/-- CT-4: the error record is kept -/
theorem test_clear_keeps_error :
    statusWord (submitted 0x00000007 (submitted 0x00000811 running1)) = 0x00007206 := by decide +kernel

/-! ## Errors and bus accesses -/

/-- ER-20, ER-21: BADCMD before BUSY before BADINST -/
theorem test_busy_order :
    statusWord (submitted 0x00000003 running1) = 0x00013215 ∧
    statusWord (submitted 0x0000000F running1) = 0x00013115 := by decide +kernel

/-- ER-24, ER-25: the first error stays, the second sets EOVF, a STATUS write of bit 2 keeps EOVF -/
theorem test_error_overflow :
    let s := submitted 0x00000009 (submitted 0x00000008 State.reset)
    statusWord s = 0x0000010C ∧ s.error.info = 0x00000008 ∧
    statusWord (done1 (wr .status 0x00000004) s) = 0x00000008 ∧ (done1 (wr .status 0x00000004) s).error.info = 0 := by
  decide

/-- BUS-1, BUS-7: a read of another size -/
theorem test_bus_size :
    statusWord (done1 (.read 0x48 .half) State.reset) = 0x00000704 ∧
    (done1 (.read 0x48 .half) State.reset).error.info = 0x00001048 ∧
    (done1 (.read 0x48 .half) State.reset).reads = [.half 0x0000] ∧
    (done1 (.read 0x20 .dword) State.reset).error.info = 0x00007020 := by decide

/-- BUS-2, BUS-3, BUS-6, BUS-8 -/
theorem test_bus_illegal :
    (done1 (.write 0x00 (.word 1)) State.reset).error.info = 0x00003100 ∧
    (done1 (.read 0x41 .word) State.reset).error.info = 0x00003041 ∧
    (done1 (.write 0x4C (.word 5)) State.reset).error.info = 0x0000314C ∧
    (done1 (.write 0x04 (.byte 1)) State.reset).error.info = 0x00000104 := by decide

/-- BUS-11 to BUS-15 -/
theorem test_bus_legal :
    (done1 (rd .id) State.reset).reads = [.word 0x44455301] ∧
    (done1 (rd .kb0) (done1 (wr .kb0 5) State.reset)).reads = [.word 0] ∧
    (done1 (rd .ctrl) (done1 (wr .ctrl 0xFFFFFFFF) State.reset)).reads = [.word 0x00000003] ∧
    (done1 (rd .rksel) (done1 (wr .rksel 0xFFFFFFFF) State.reset)).reads = [.word 0x0000003F] := by decide

/-- PR-4 rows 3 and 5: the readout of a bound and of an unbound instance -/
theorem test_readout :
    (done1 (rd .rkHi) { bound1 with rksel := { ridx := 0, sel := 1 } }).reads = [.word 0x00001B02] ∧
    (done1 (rd .rkLo) { bound1 with rksel := { ridx := 15, sel := 1 } }).reads = [.word 0x8B0E17F5] ∧
    (done1 (rd .rkLo) { bound1 with rksel := { ridx := 0, sel := 2 } }).reads = [.word 0] := by decide +kernel

/-- PR-2 rows 4 and 5: irq rises with DONE and falls when DONE is cleared -/
theorem test_irq :
    let s := submitted 0x00000000 { State.reset with ctrl := { ieDone := true, ieErr := false } }
    irq s = true ∧ irq (done1 (wr .status 2) s) = false := by decide

/-! ## Key schedule, round function, cipher and engine -/

/-- KS-1, rows 0 and 15 -/
theorem test_roundKey :
    roundKey 0xF0CCAAF556678F 0 = 0x1B02EFFC7072 ∧ roundKey 0xF0CCAAF556678F 15 = 0xCB3D8B0E17F5 := by decide +kernel
/-- RF-1 -/
theorem test_feistel : feistel 0xF0AAF0AA 0x1B02EFFC7072 = 0x234AA9BB := by decide +kernel
/-- TB-11, TB-12: the two outer bits of an S-box group -/
theorem test_sbox :
    (List.range 8).map (fun n => (sboxOut n 0b000001).toNat) = [0, 3, 13, 13, 14, 10, 13, 1] ∧
    (List.range 8).map (fun n => (sboxOut n 0b100000).toNat) = [4, 0, 13, 10, 4, 9, 1, 7] := by decide
/-- KAT-1 (the source's own vector) and KAT-2 -/
theorem test_des :
    desEncrypt (pc1 0x133457799BBCDFF1) 0x0123456789ABCDEF = 0x85E813540F0AB405 ∧
    desDecrypt (pc1 0x133457799BBCDFF1) 0x85E813540F0AB405 = 0x0123456789ABCDEF := by decide +kernel
/-- TD-1 -/
theorem test_tdea :
    tdeaEncrypt (pc1 0x0123456789ABCDEF) (pc1 0x23456789ABCDEF01) (pc1 0x456789ABCDEF0123) 0x5468652071756663 =
      0xA826FD8CE53B855F := by decide +kernel
/-- KAT-1, the first engine step -/
theorem test_engine_round :
    (after (step running1)).l = 0xF0AAF0AA ∧ (after (step running1)).r = 0xEF4A6544 ∧
    statusWord (after (step running1)) = 0x00113011 := by decide +kernel
/-- KAT-1 and ST-1, the 16th engine step -/
theorem test_engine_completion :
    (after (step lastRound1)).dout = { hi := 0x85E81354, lo := 0x0F0AB405 } ∧
    statusWord (after (step lastRound1)) = 0x00003012 := by decide +kernel
/-- ST-2, the hand-over in the 16th engine step -/
theorem test_engine_handOver : statusWord (after (step (lastRound3 1))) = 0x00025071 := by decide +kernel

/-! ## Host programs -/

/-- PR-1 and PR-3: the words of the assembler's commands -/
theorem test_assemble :
    assemble (.desSetkey 1 none) = 0x00000811 ∧ assemble (.desSetkey 1 (some 7)) = 0x00000711 ∧
    assemble (.tdeaSetkey 16) = 0x00001002 ∧ assemble (.tdeaDec none) = 0x00000806 := by decide

/-- R353: the key bytes of 00_scope.md R19, a short key padded with zeros, and the declared length of a 32-byte key -/
theorem test_segment :
    segment [0x13, 0x34, 0x57, 0x79, 0x9B, 0xBC, 0xDF, 0xF1] 0 = 0x133457799BBCDFF1 ∧
    segment [0x13, 0x34] 0 = 0x1334000000000000 ∧ declaredLength (List.replicate 32 0) = 31 := by decide

/-- R353 with the STATUS words of ER-10 and ST-1: a rejection ends the call with its ERRCODE, an accepted run goes on to read
DOUT, and a driver check that fails issues no command -/
theorem test_driver_violation :
    driverAnswered (.des []) [.word 0x00000404] = .violation (some 4) ∧
    driverAnswered (.desEnc []) [.word 0x00003012] = .run rdout ∧
    driverBegin (.tdea [1] (some [2]) none) = .violation none := by decide

/-- PR-3 rows 6, 7: a call after a rejected one is accepted and reports nothing; a call that is rejected reports its own code -/
theorem test_driver_local :
    let s := submitted 0x00000813 State.reset
    let call (c : DriverCall) : DriverStep :=
      match driverBegin c with
      | .run stmts => driverAnswered c (after (core.run 5 { s with host := stmts })).reads
      | other => other
    statusWord s = 0x00000604 ∧ call (.des (List.replicate 8 0)) = .bound ∧
    call (.des (List.replicate 7 0)) = .violation (some 4) := by decide +kernel

/-- 70_reset_and_hazards.md R352: 16 digits, most significant first -/
theorem test_hexWord :
    hexWord .upper 0x0F0AB405 = ['0', 'F', '0', 'A', 'B', '4', '0', '5'] := by decide

/-! ## Witnesses: states and operands that meet the hypotheses of the statements -/

/-- A state with one pending statement and one fixed turn. -/
def scheduled (t : Turn) (h : List HostStmt) (s : State) : State := { s with host := h, sched := [t] }

/-- A run of KAT-1 with IE_DONE set, one engine step before completion. -/
def lastRoundIrq : State := { lastRound1 with ctrl := { ieDone := true, ieErr := false } }

theorem witness_ReservedWordsAreRejected :
    reservedWord 0x00002000 = true ∧ reservedWord 0x80000000 = true ∧ reservedWord 0x00000040 = true ∧
    reservedWord 0x00000008 = true ∧ reservedWord 0x0000000F = true ∧ reservedWord 0x00000035 = true ∧
    reservedWord 0x00000107 = true ∧ reservedWord 0x00001F31 = false ∧ reservedWord 0x00000007 = false := by decide

theorem witness_EncodeOfDecodedIsTheWord :
    decode 0x00001F31 = .ok (.desSetkey 3 31) ∧ decode 0x00000007 = .ok .clear := by decide

theorem witness_StepRunsTheSubmittedCommand :
    ((scheduled .host [.write 0x08 (.word 0x00000811)] loaded).host = .write 0x08 (.word 0x00000811) :: [] ∧
      decode 0x00000811 = .ok (.desSetkey 1 8) ∧
      (scheduled .host [.write 0x08 (.word 0x00000811)] loaded).sched = .host :: []) ∧
    (({ loaded with host := [.write 0x08 (.word 0x00000811)] } : State).host = .write 0x08 (.word 0x00000811) :: [] ∧
      ({ loaded with host := [.write 0x08 (.word 0x00000811)] } : State).sched = [] ∧
      ({ loaded with host := [.write 0x08 (.word 0x00000811)] } : State).busy = false) := by decide

theorem witness_StepRejectsAnUndecodedWord :
    (scheduled .host [.write 0x08 (.word 0x00000008)] loaded).host = .write 0x08 (.word 0x00000008) :: [] ∧
    (scheduled .host [.write 0x08 (.word 0x00000008)] loaded).sched = .host :: [] ∧
    decode 0x00000008 = .bad .badCmd := by decide

theorem witness_StepIsTheScheduledAgents :
    ((scheduled .engine [] running1).sched = .engine :: [] ∧ (scheduled .engine [] running1).busy = true) ∧
    ((scheduled .engine [] loaded).sched = .engine :: [] ∧ (scheduled .engine [] loaded).busy = false) ∧
    ((scheduled .host [] loaded).sched = .host :: [] ∧ (scheduled .host [] loaded).host = []) ∧
    (running1.sched = [] ∧ running1.busy = true) ∧
    (loaded.sched = [] ∧ loaded.busy = false ∧ loaded.host = []) := by decide

theorem witness_HostTurnMakesOneTransaction :
    ((scheduled .host [.read 0x48 .half] loaded).sched = .host :: [] ∧
      (scheduled .host [.read 0x48 .half] loaded).host = .read 0x48 .half :: []) ∧
    (scheduled .host [.write 0x20 (.word 5)] loaded).host = .write 0x20 (.word 5) :: [] ∧
    ((scheduled .host [wait] loaded).host = .poll 0x0C 1 0 :: [] ∧
      readData 0x0C .word (scheduled .host [wait] loaded) = .word 0 ∧ (0 : Word) &&& 1 = 0) ∧
    (readData 0x0C .word (scheduled .host [wait] running1) = .word 0x00013011 ∧ (0x00013011 : Word) &&& 1 ≠ 0) := by
  decide

theorem witness_ResetSetsEveryPieceOfState : (scheduled .reset [] running1).sched = .reset :: [] := by decide

/-- Also of DesSetkeyBindsTheNamedInstance, TdeaSetkeyBindsTheThreeInstances and InstanceZeroIsRejected. -/
theorem witness_NopCompletesAtOnce : loaded3.busy = false := by decide

theorem witness_DesCommandsStartARun :
    (bound1.busy = false ∧ bound1.slot? 1 = some bound1.inst1 ∧ bound1.inst1.kv = true) ∧
    (bound3.busy = false ∧ bound3.slot? 2 = some bound3.inst2 ∧ bound3.inst2.kv = true) ∧
    (bound3.busy = false ∧ bound3.slot? 3 = some bound3.inst3 ∧ bound3.inst3.kv = true) := by decide +kernel

theorem witness_TdeaCommandsStartARun :
    bound3.busy = false ∧ bound3.inst1.kv = true ∧ bound3.inst2.kv = true ∧ bound3.inst3.kv = true := by decide

theorem witness_BusyRejectsEveryCommandButClear :
    running1.busy = true ∧ Instr.nop ≠ .clear ∧ Instr.desSetkey 1 8 ≠ .clear ∧ Instr.tdeaSetkey 8 ≠ .clear ∧
    Instr.desEnc 1 8 ≠ .clear ∧ Instr.desDec 0 0 ≠ .clear ∧ Instr.tdeaEnc 8 ≠ .clear ∧ Instr.tdeaDec 31 ≠ .clear := by
  decide

theorem witness_WrongLengthIsRejected :
    loaded.busy = false ∧ (7 : BitVec 5) ≠ 8 ∧ (9 : BitVec 5) ≠ 8 ∧ (0 : BitVec 5) ≠ 8 ∧ (31 : BitVec 5) ≠ 8 ∧
    (1 : BitVec 2) ≠ 0 ∧ (3 : BitVec 2) ≠ 0 ∧ (7 : BitVec 5) ≠ 16 ∧ (7 : BitVec 5) ≠ 24 ∧ (31 : BitVec 5) ≠ 16 ∧
    (31 : BitVec 5) ≠ 24 := by decide

theorem witness_UnboundInstanceIsRejected :
    (bound1.busy = false ∧ bound1.slot? 2 = some bound1.inst2 ∧ bound1.inst2.kv = false) ∧
    (bound1.slot? 3 = some bound1.inst3 ∧ bound1.inst3.kv = false) ∧
    (loaded.slot? 1 = some loaded.inst1 ∧ loaded.inst1.kv = false) ∧
    (bound1.inst1.kv = false ∨ bound1.inst2.kv = false ∨ bound1.inst3.kv = false) := by decide

theorem witness_RaiseRecordsTheFirstError :
    State.reset.error.err = false ∧ (raise .noKey 0x00000813 State.reset).error.err = true := by decide

theorem witness_StatusWriteClearsTheNamedFlags : (0x0000000E : Word).getLsbD 2 = true := by decide

theorem witness_IllegalAccessesAreRecorded :
    AccessSize.half ≠ .word ∧ (0x41 : Offset).toNat % 4 ≠ 0 ∧ (∀ r : Reg, r.offset ≠ 0x60) ∧
    (∀ r : Reg, r.offset ≠ 0x14) ∧ (∀ r : Reg, r.offset ≠ 0xFC) ∧ (BusData.byte 1).size ≠ .word ∧ Reg.cmd.access = .wo := by
  refine ⟨by decide, by decide, ?_, ?_, ?_, by decide, by decide⟩ <;> (intro r; cases r <;> decide)

theorem witness_RejectionsHaveNoPartialEffect :
    legalRead 0x60 .word = none ∧ legalRead 0x48 .half = none ∧ legalWrite 0x00 (BusData.word 1).size = none := by decide

theorem witness_RoundKeyReadoutShowsTheSelectedKey :
    (let s := { bound1 with rksel := { ridx := 15, sel := 1 } };
      s.slot? s.rksel.sel = some s.inst1 ∧ s.inst1.kv = true) ∧
    (∀ k, State.reset.slot? State.reset.rksel.sel = some k → k.kv = false) ∧
    (let s := { bound1 with rksel := { ridx := 0, sel := 2 } };
      ∀ k, s.slot? s.rksel.sel = some k → k.kv = false) := by
  refine ⟨by decide, fun k h => (by cases h), fun k h => ?_⟩
  cases h; decide

theorem witness_IrqFollowsDoneAndErr :
    ∃ t, engineStep lastRoundIrq = .next t ∧
      lastRoundIrq.busy = true ∧ t.busy = false ∧ lastRoundIrq.ctrl.ieDone = true :=
  exists_next (by decide +kernel) (by decide +kernel)

theorem witness_EngineBasePlacesTheOffsets :
    offsetOfAddress (Config.engineBase + 0x00) = some 0x00 ∧ offsetOfAddress (Config.engineBase + 0xFF) = some 0xFF := by
  constructor <;> simp [offsetOfAddress]

theorem witness_FinalPermutationInvertsTheInitial : (0 : Nat) < 64 ∧ (63 : Nat) < 64 := by decide

/-- KS-2 -/
theorem witness_ParityBitsDoNotReachTheKey :
    ∀ i, i < 64 → i % 8 ≠ 7 → bit (0x133457799BBCDFF1 : BitVec 64) i = bit (0x123556789ABDDEF0 : BitVec 64) i := by decide

theorem witness_SingleKeyTdeaIsDes :
    bound1.inst2.cd0 = bound1.inst3.cd0 ∧
    (let s := bindAll 0x133457799BBCDFF1 0x133457799BBCDFF1 0x133457799BBCDFF1 loaded;
      s.inst1.cd0 = s.inst2.cd0 ∧ s.inst2.cd0 = s.inst3.cd0) := by decide +kernel

/-- TD-3 and TD-3b -/
theorem witness_TwoKeyBindingIsK1K2K1 :
    let t : State := { loaded3 with kb := { loaded3.kb with kb4 := 0x01234567, kb5 := 0x89ABCDEF } }
    loaded3.busy = false ∧ t.busy = false ∧ t.kb.kb0 = loaded3.kb.kb0 ∧ t.kb.kb1 = loaded3.kb.kb1 ∧
    t.kb.kb2 = loaded3.kb.kb2 ∧ t.kb.kb3 = loaded3.kb.kb3 ∧ t.kb.kb4 = loaded3.kb.kb0 ∧ t.kb.kb5 = loaded3.kb.kb1 := by
  decide

theorem witness_EngineStepPerformsOneRound :
    (running1.seq.pass ≠ 0 ∧ (passes running1.seq.curop running1.seq.curinst)[running1.seq.pass.toNat - 1]? = some (1, .enc) ∧
      running1.slot? 1 = some running1.inst1 ∧ running1.seq.rnd < 15) ∧
    ((lastRound3 1).seq.pass ≠ 0 ∧ (passes 0x5 0)[(lastRound3 1).seq.pass.toNat - 1]? = some (1, .enc) ∧
      (lastRound3 1).seq.rnd = 15 ∧ (lastRound3 1).seq.pass.toNat < npass (lastRound3 1).seq.curop) ∧
    ((passes 0x5 0)[(lastRound3 2).seq.pass.toNat - 1]? = some (2, .dec) ∧
      (lastRound3 2).seq.pass.toNat < npass (lastRound3 2).seq.curop) ∧
    ((passes 0x5 0)[(lastRound3 3).seq.pass.toNat - 1]? = some (3, .enc) ∧
      npass (lastRound3 3).seq.curop ≤ (lastRound3 3).seq.pass.toNat) ∧
    (lastRound1.seq.rnd = 15 ∧ npass lastRound1.seq.curop ≤ lastRound1.seq.pass.toNat) := by decide

theorem witness_EngineStepReadsNoHostRegister :
    (∃ t, engineStep running1 = .next t ∧ t.busy = true) ∧ (∃ t, engineStep lastRound1 = .next t ∧ t.busy = false) :=
  ⟨exists_next (by decide +kernel) (by decide +kernel), exists_next (by decide +kernel) (by decide +kernel)⟩

/-- DES_ENC is accepted; an engine step leaves it running; after 15 the next one is the engine's; after 16 it is complete. -/
theorem witness_DesRunComputesTheDesFunction :
    bound1.busy = false ∧ bound1.slot? 1 = some bound1.inst1 ∧ bound1.inst1.kv = true ∧
    exec (.desEnc 1 8) bound1 = .next running1 ∧
    (∃ u, core.run 1 running1 = .next u ∧ undisturbed 1 running1 = true ∧ engineSteps 1 running1 = 1) ∧
    (∃ u, core.run 15 running1 = .next u ∧ undisturbed 15 running1 = true ∧ engineSteps 15 running1 = 15 ∧
      u.engineStepNext = true ∧ isNext (step u) = true) ∧
    (∃ u, core.run 16 running1 = .next u ∧ undisturbed 16 running1 = true ∧ engineSteps 16 running1 = 16) :=
  ⟨rfl, rfl, rfl, rfl, exists_next (by decide +kernel) (by decide +kernel),
    exists_next (by decide +kernel) (by decide +kernel), exists_next (by decide +kernel) (by decide +kernel)⟩

theorem witness_DesRunComputesTheDesFunction_dec :
    ∃ t, exec (.desDec 1 8) bound1 = .next t ∧ isNext (core.run 16 t) = true ∧ undisturbed 16 t = true ∧
      engineSteps 16 t = 16 :=
  exists_next (by decide +kernel) (by decide +kernel)

theorem witness_TdeaRunComputesTheTdeaFunction :
    bound3.busy = false ∧ bound3.inst1.kv = true ∧ bound3.inst2.kv = true ∧ bound3.inst3.kv = true ∧
    exec (.tdeaEnc 8) bound3 = .next running3 ∧
    (∃ u, core.run 47 running3 = .next u ∧ undisturbed 47 running3 = true ∧ engineSteps 47 running3 = 47 ∧
      u.engineStepNext = true ∧ isNext (step u) = true) ∧
    (∃ u, core.run 48 running3 = .next u ∧ undisturbed 48 running3 = true ∧ engineSteps 48 running3 = 48) :=
  ⟨rfl, rfl, rfl, rfl, rfl, exists_next (by decide +kernel) (by decide +kernel),
    exists_next (by decide +kernel) (by decide +kernel)⟩

theorem witness_TdeaRunComputesTheTdeaFunction_dec :
    ∃ t, exec (.tdeaDec 8) bound3 = .next t ∧ isNext (core.run 48 t) = true ∧ undisturbed 48 t = true ∧
      engineSteps 48 t = 48 :=
  exists_next (by decide +kernel) (by decide +kernel)

theorem witness_ResultIgnoresWhatRanBefore :
    let other : State := { bound1 with l := 5, r := 7, dout := { hi := 1, lo := 2 }, kb := KeyBuffer.zero }
    bound1.busy = false ∧ other.busy = false ∧ bound1.din = other.din ∧ bound1.inst1 = other.inst1 ∧
    bound1.inst2 = other.inst2 ∧ bound1.inst3 = other.inst3 ∧
    (∃ t, exec (.desEnc 1 8) bound1 = .next t ∧ t.busy = true) ∧ (∃ t, exec (.desEnc 1 8) other = .next t ∧ t.busy = true) :=
  ⟨rfl, rfl, rfl, rfl, rfl, rfl, exists_next (by decide +kernel) (by decide +kernel),
    exists_next (by decide +kernel) (by decide +kernel)⟩

theorem witness_inv_running1 : running1.Inv := by constructor <;> decide
theorem witness_inv_running3 : running3.Inv := by constructor <;> decide
theorem witness_inv_reset : State.reset.Inv := by constructor <;> decide
theorem witness_errorCodeInv : State.reset.ErrorCodeInv ∧ (raise .noKey 0x00000813 State.reset).ErrorCodeInv := by
  constructor <;> constructor <;> decide

/-- An idle machine, and one with all 48 engine steps still to do. -/
theorem witness_WaitEnds :
    (({ State.reset with host := [wait] } : State).Inv ∧ ({ State.reset with host := [wait] } : State).sched = [] ∧
      ({ State.reset with host := [wait] } : State).host = wait :: []) ∧
    (({ running3 with host := [wait] } : State).Inv ∧ ({ running3 with host := [wait] } : State).sched = [] ∧
      ({ running3 with host := [wait] } : State).host = wait :: []) :=
  ⟨⟨{ witness_inv_reset with }, rfl, rfl⟩, ⟨{ witness_inv_running3 with }, rfl, rfl⟩⟩

/-- Also of InvariantStatesNeverStop. -/
theorem witness_StepKeepsTheStateInvariants :
    (State.reset.Inv ∧ ∃ t, step State.reset = .next t ∧ t.busy = false) ∧
    (running1.Inv ∧ ∃ t, step running1 = .next t ∧ t.busy = true) :=
  ⟨⟨witness_inv_reset, exists_next (by decide) (by decide)⟩,
    ⟨witness_inv_running1, exists_next (by decide +kernel) (by decide +kernel)⟩⟩

theorem witness_StepKeepsTheErrorCodeDefined :
    State.reset.ErrorCodeInv ∧ ∃ t, step (State.reset.withFetchWord 32 0x00000008) = .next t ∧ t.error.code = 1 :=
  ⟨witness_errorCodeInv.1, exists_next (by decide) (by decide)⟩

theorem witness_KeysChangeOnlyBySetkeyClearReset :
    (∃ t, step (loaded.withFetchWord 32 0x00000811) = .next t ∧ t.inst1 ≠ loaded.inst1) ∧
    (∃ t, step (running1.withFetchWord 32 0x00000007) = .next t ∧ t.inst1 ≠ running1.inst1) ∧
    (∃ t, step (scheduled .reset [] running1) = .next t ∧ t.inst1 ≠ running1.inst1) :=
  ⟨exists_next (by decide +kernel) (by decide +kernel), exists_next (by decide +kernel) (by decide +kernel),
    exists_next (by decide +kernel) (by decide +kernel)⟩

theorem witness_DoutChangesOnlyAtCompletionClearReset :
    let s : State := { bound1 with dout := { hi := 1, lo := 2 } }
    (∃ t, step lastRound1 = .next t ∧ t.dout ≠ lastRound1.dout) ∧
    (∃ t, step (s.withFetchWord 32 0x00000007) = .next t ∧ t.dout ≠ s.dout) ∧
    (∃ t, step (scheduled .reset [] s) = .next t ∧ t.dout ≠ s.dout) :=
  ⟨exists_next (by decide +kernel) (by decide +kernel), exists_next (by decide +kernel) (by decide +kernel),
    exists_next (by decide +kernel) (by decide +kernel)⟩

theorem witness_BusyChangesOnlyAsListed :
    (bound1.busy = false ∧ ∃ t, step (bound1.withFetchWord 32 0x00000813) = .next t ∧ t.busy = true) ∧
    (∃ t, step lastRound1 = .next t ∧ t.busy = false) ∧
    (running1.busy = true ∧ ∃ t, step (running1.withFetchWord 32 0x00000007) = .next t ∧ t.busy = false) ∧
    (∃ t, step (scheduled .reset [] running1) = .next t ∧ t.busy = false) :=
  ⟨⟨rfl, exists_next (by decide +kernel) (by decide +kernel)⟩, exists_next (by decide +kernel) (by decide +kernel),
    ⟨rfl, exists_next (by decide +kernel) (by decide +kernel)⟩, exists_next (by decide +kernel) (by decide +kernel)⟩

theorem witness_DoneFallsOnlyAsListed :
    let s : State := { bound1 with done := true }
    s.done = true ∧ (∃ t, step (s.withFetchWord 32 0x00000813) = .next t ∧ t.done = false) ∧
    (∃ t, step (scheduled .host [wr .status 2] s) = .next t ∧ t.done = false) ∧
    (∃ t, step (scheduled .reset [] s) = .next t ∧ t.done = false) :=
  ⟨rfl, exists_next (by decide +kernel) (by decide +kernel), exists_next (by decide +kernel) (by decide +kernel),
    exists_next (by decide +kernel) (by decide +kernel)⟩

theorem witness_LoadsFillTheNamedRegisters :
    let s (h : List HostStmt) : State := { State.reset with host := h, sched := [.host, .host] }
    (s []).sched = .host :: .host :: [] ∧
    (s (ldkey 0 0x0123456789ABCDEF)).host = ldkey 0 0x0123456789ABCDEF ++ [] ∧
    (s (ldkey 1 0x0123456789ABCDEF)).host = ldkey 1 0x0123456789ABCDEF ++ [] ∧
    (s (ldkey 2 0x0123456789ABCDEF)).host = ldkey 2 0x0123456789ABCDEF ++ [] ∧
    (s (ldblk 0x0123456789ABCDEF)).host = ldblk 0x0123456789ABCDEF ++ [] := by decide

end Sys2Proof.Tests
end

section
/-! SUPPORT. What a step is once it is known whose turn it is (00_scope.md R20; 43_des.md R213; log 2). -/

namespace Sys2Proof.Machine

/-- An engine's turn on a busy engine is an engine step (43_des.md R213). -/
theorem engineTurn_of_busy {s : State} (hb : s.busy = true) : engineTurn s = engineStep s := if_pos hb

/-- An engine's turn on an idle engine passes (log 2). -/
theorem engineTurn_of_idle {s : State} (hb : s.busy = false) : engineTurn s = .next s := if_neg (by simp [hb])

/-- A turn of a host with nothing to do passes (log 2). -/
theorem hostTurn_of_nil {s : State} (hh : s.host = []) : hostTurn s = .next s := by
  unfold hostTurn
  rw [hh]

/-- With a turn fixed, the step is that agent's transition, the turn taken off the schedule (00_scope.md R20). -/
theorem step_of_sched_cons {s : State} {t : Turn} {turns : List Turn} (hs : s.sched = t :: turns) :
    step s = agentTurn t { s with sched := turns } := by
  show agentTurn (nextTurn s).1 (nextTurn s).2 = _
  rw [nextTurn_cons hs]

/-- With no turn fixed, the step is the engine's while it is busy (log 2). -/
theorem step_of_sched_nil_busy {s : State} (hs : s.sched = []) (hb : s.busy = true) : step s = engineTurn s := by
  show agentTurn (nextTurn s).1 (nextTurn s).2 = _
  rw [nextTurn_nil hs, if_pos hb]
  rfl

/-- With no turn fixed, the step is the host's while the engine is idle (log 2). -/
theorem step_of_sched_nil_idle {s : State} (hs : s.sched = []) (hb : s.busy = false) : step s = hostTurn s := by
  show agentTurn (nextTurn s).1 (nextTurn s).2 = _
  rw [nextTurn_nil hs, if_neg (by simp [hb])]
  rfl

/-- Settles O8: the schedule says which agent's transition the step is; BUSY and the host's program say what that does. -/
theorem stepIsTheScheduledAgents : Obligations.StepIsTheScheduledAgents := by
  intro s turns
  refine ⟨fun hs hb => ?_, fun hs hb => ?_, fun hs hh => ?_, fun hs hb => ?_, fun hs hb hh => ?_⟩
  · exact (step_of_sched_cons hs).trans (engineTurn_of_busy hb)
  · exact (step_of_sched_cons hs).trans (engineTurn_of_idle hb)
  · exact (step_of_sched_cons hs).trans (hostTurn_of_nil hh)
  · exact (step_of_sched_nil_busy hs hb).trans (engineTurn_of_busy hb)
  · exact (step_of_sched_nil_idle hs hb).trans (hostTurn_of_nil hh)

end Sys2Proof.Machine
end

section
/-! SUPPORT. One step as a case of what it does to the engine, for the statements about what every step keeps (00_scope.md R20; 20_memory.md R73 to R75; 43_des.md R213; 60_exceptions.md R303). -/

namespace Sys2Proof.Machine

/-- What one step from `s` can leave: one case per kind of effect on the engine. `step_effect` ties it to the step. -/
inductive StepEffect (s : State) : State → Prop where
  /-- a reset -/
  | reset (hr : s.resetNext = true) : StepEffect s (applyReset s.turnTaken)
  /-- an engine step of a busy engine -/
  | engine {t : State} (hn : s.engineStepNext = true) (hb : s.busy = true) (ht : engineStep s.turnTaken = .next t) :
      StepEffect s t
  /-- a transition that reaches no register with an effect: nothing but an error, if any, is recorded -/
  | record (host : List HostStmt) (reads : List BusData) (e : ErrorRecord) (he : RecordAfter s e) :
      StepEffect s { s.turnTaken with host := host, reads := reads, error := e }
  /-- an accepted command, whose word the host wrote to CMD -/
  | command (w : Word) (i : Instr) (rest : List HostStmt) (hh : s.host = .write 0x08 (.word w) :: rest)
      (hd : decode w = .ok i) (hk : commandCheck i s.turnTaken = none) (hclear : i = .clear → s.clearNext = true) :
      StepEffect s { commandEffect i s.turnTaken with host := rest }
  /-- a write to STATUS -/
  | status (w : Word) (rest : List HostStmt) (hh : s.host = .write 0x0C (.word w) :: rest) :
      StepEffect s (statusW1c w { s.turnTaken with host := rest })
  /-- a write to CTRL, KB, DIN or RKSEL -/
  | config (c : Ctrl) (kb : KeyBuffer) (d : BlockWords) (k : RkSel) (rest : List HostStmt) :
      StepEffect s { s.turnTaken with ctrl := c, kb := kb, din := d, rksel := k, host := rest }

/-- In the host's turn, a write to CMD of a word that decodes to CLEAR is the submission of CLEAR (30_encoding.md R106). -/
theorem clearNext_of_decode {s : State} {w : Word} {rest : List HostStmt} (ht : (nextTurn s).1 = .host)
    (hh : s.host = .write 0x08 (.word w) :: rest) (hd : decode w = .ok .clear) : s.clearNext = true := by
  unfold State.clearNext
  rw [ht, hh, clear_word hd]
  rfl

/-- Every step has one of the listed effects. -/
theorem step_effect {s t : State} (h : step s = .next t) : StepEffect s t := by
  obtain ⟨hr, hs⟩ | ⟨hn, hb, hs⟩ | ⟨_, _, hs⟩ | ⟨ht, hs⟩ := step_cases s <;> rw [hs] at h
  · injection h with h
    exact h ▸ .reset hr
  · exact .engine hn hb h
  · injection h with h
    exact h ▸ .record s.host s.reads s.error (.inl rfl)
  · obtain ⟨host, reads, e, rfl, he⟩ | ⟨w, i, rest, hh, hd, hk, rfl⟩ | ⟨r, w, rest, hh, hc, hw⟩ := hostTurn_effect h
    · exact .record host reads e (he.imp id fun ⟨code, info, h⟩ => ⟨code, info, h.trans (raise_error_congr _ _ rfl)⟩)
    · exact .command w i rest hh hd hk fun hi => clearNext_of_decode ht hh (hi ▸ hd)
    · obtain ⟨c, kb, d, k, rfl⟩ | ⟨rfl, rfl⟩ := writeReg_effect hc hw
      · exact .config c kb d k rest
      · exact .status w rest hh

/-- An engine step leaves CTRL, the error record, the instances and the command of the sequencer (43_des.md R213, R214). -/
theorem engineStep_frame {s t : State} (h : engineStep s = .next t) :
    t.ctrl = s.ctrl ∧ t.error = s.error ∧ (t.inst1 = s.inst1 ∧ t.inst2 = s.inst2 ∧ t.inst3 = s.inst3) ∧
      t.seq.curop = s.seq.curop ∧ t.seq.curinst = s.seq.curinst := by
  obtain ⟨cd0, dir, _, ⟨_, rfl⟩ | ⟨_, _, rfl⟩ | ⟨_, _, rfl⟩⟩ := engineStep_cases h
  all_goals exact ⟨rfl, rfl, ⟨rfl, rfl, rfl⟩, rfl, rfl⟩

/-- An engine step leaves BUSY, DONE and DOUT, or completes the run and puts the sequencer at rest (43_des.md R213, R214). -/
theorem engineStep_flags {s t : State} (h : engineStep s = .next t) :
    (t.busy = s.busy ∧ t.done = s.done ∧ t.dout = s.dout) ∨
      (t.busy = false ∧ t.done = true ∧ t.seq.pass = 0 ∧ t.seq.rnd = 0) := by
  obtain ⟨cd0, dir, _, ⟨_, rfl⟩ | ⟨_, _, rfl⟩ | ⟨_, _, rfl⟩⟩ := engineStep_cases h
  · exact .inl ⟨rfl, rfl, rfl⟩
  · exact .inl ⟨rfl, rfl, rfl⟩
  · exact .inr ⟨rfl, rfl, rfl, rfl⟩

/-- A STATUS write with bit 2 clears ERR, ERRCODE and ERRINFO (60_exceptions.md R308). -/
theorem statusW1c_error_of_bit {w : Word} (s : State) (hw : w.getLsbD 2 = true) :
    (statusW1c w s).error = { err := false, eovf := s.error.eovf && !w.getLsbD 3, code := 0, info := 0 } := by
  simp only [statusW1c_error, hw, Bool.not_true, Bool.and_false, if_true]

/-- One without bit 2 leaves them (60_exceptions.md R308). -/
theorem statusW1c_error_of_no_bit {w : Word} (s : State) (hw : w.getLsbD 2 = false) :
    (statusW1c w s).error = { s.error with eovf := s.error.eovf && !w.getLsbD 3 } := by
  simp only [statusW1c_error, hw, Bool.not_false, Bool.and_true, Bool.false_eq_true, if_false]

/-- What a step does to the error record: as reset leaves it, unchanged or with an error raised, or with the flags of a STATUS
write cleared (60_exceptions.md R304, R308; 70_reset_and_hazards.md R340). -/
theorem step_error {s t : State} (h : step s = .next t) :
    t.error = State.reset.error ∨ RecordAfter s t.error ∨ ∃ w, t.error = (statusW1c w s).error := by
  cases step_effect h with
  | reset => exact .inl rfl
  | engine _ _ ht => exact .inr (.inl (.inl (engineStep_frame ht).2.1))
  | record _ _ _ he => exact .inr (.inl he)
  | command _ i => exact .inr (.inl (.inl (commandEffect_error i _)))
  | status w => exact .inr (.inr ⟨w, rfl⟩)
  | config => exact .inr (.inl (.inl rfl))

end Sys2Proof.Machine
end

section
/-! SUPPORT. The invariants of 10_state.md R53 over the states a step leaves, and the statements O52 and O53. -/

namespace Sys2Proof.Machine

/-- Clause (6) of 10_state.md R53, of the error record alone. -/
def ErrorRecord.Clean (e : ErrorRecord) : Prop := e.err = false → e.code = 0 ∧ e.info = 0

/-- Clause (7) of 10_state.md R53: an unbound slot holds no key. -/
def KeySlot.Clean (k : KeySlot) : Prop := k.kv = false → k.cd0 = 0

/-- Clause (7) of 10_state.md R53 for the three instances. -/
structure State.SlotsClean (s : State) : Prop where
  slot1 : s.inst1.Clean
  slot2 : s.inst2.Clean
  slot3 : s.inst3.Clean

/-- The instances that the command of the sequencer uses are bound, as clauses (4) and (5) of 10_state.md R53 say of a busy
engine. -/
structure State.KeysBound (s : State) : Prop where
  des : s.seq.curop = 3 ∨ s.seq.curop = 4 → s.bound s.seq.curinst = true
  tdea : s.seq.curop = 5 ∨ s.seq.curop = 6 → s.allBound = true

theorem State.Inv.slotsClean {s : State} (hi : s.Inv) : s.SlotsClean := ⟨hi.unbound1, hi.unbound2, hi.unbound3⟩

theorem State.Inv.keysBound {s : State} (hi : s.Inv) (hb : s.busy = true) : s.KeysBound :=
  ⟨fun ho => (hi.desRun hb ho).2.2, fun ho => (hi.tdeaRun hb ho).2.2⟩

/-- Which instances are bound is decided by the three instances only. -/
theorem State.KeysBound.congr {s t : State} (hk : s.KeysBound) (h1 : t.inst1 = s.inst1) (h2 : t.inst2 = s.inst2)
    (h3 : t.inst3 = s.inst3) (ho : t.seq.curop = s.seq.curop) (hc : t.seq.curinst = s.seq.curinst) : t.KeysBound := by
  have hbound : t.bound t.seq.curinst = s.bound s.seq.curinst := by
    unfold State.bound
    rw [slot?_congr h1 h2 h3, hc]
  have hall : t.allBound = s.allBound := by
    unfold State.allBound
    rw [h1, h2, h3]
  refine ⟨fun h => ?_, fun h => ?_⟩ <;> rw [ho] at h
  · exact hbound.trans (hk.des h)
  · exact hall.trans (hk.tdea h)

/-- An idle engine meets the invariants when its sequencer is at rest and it holds no stray error or key. -/
theorem State.Inv.of_idle {s : State} (hb : s.busy = false) (hp : s.seq.pass = 0) (hr : s.seq.rnd = 0)
    (he : s.error.Clean) (hc : s.SlotsClean) : s.Inv where
  idleIffPass := iff_of_true hb hp
  idleRnd _ := hr
  busyOp h := by simp [hb] at h
  desRun h := by simp [hb] at h
  tdeaRun h := by simp [hb] at h
  noError := he
  unbound1 := hc.slot1
  unbound2 := hc.slot2
  unbound3 := hc.slot3

/-- A busy engine meets them when its sequencer names a pass of a command whose instances are bound. -/
theorem State.Inv.of_running {s : State} (hb : s.busy = true) (hs : s.RunShape) (hk : s.KeysBound) (he : s.error.Clean)
    (hc : s.SlotsClean) : s.Inv where
  idleIffPass := iff_of_false (by simp [hb]) hs.passNonzero
  idleRnd h := by simp [hb] at h
  busyOp _ := by
    obtain ⟨h | h, -⟩ | ⟨h | h, -⟩ := hs.shape <;> simp [h]
  desRun _ ho := by
    obtain ⟨-, hp, hi⟩ | ⟨h56, -⟩ := hs.shape
    · exact ⟨hp, hi, hk.des ho⟩
    · obtain ho | ho := ho <;> simp [ho] at h56
  tdeaRun _ ho := by
    obtain ⟨h34, -⟩ | ⟨-, hi⟩ := hs.shape
    · obtain ho | ho := ho <;> simp [ho] at h34
    · exact ⟨hs.passNonzero, hi, hk.tdea ho⟩
  noError := he
  unbound1 := hc.slot1
  unbound2 := hc.slot2
  unbound3 := hc.slot3

/-- The invariants look at BUSY, the sequencer, the instances and the error record only. -/
theorem State.Inv.congr {s t : State} (hi : s.Inv) (hb : t.busy = s.busy) (hq : t.seq = s.seq) (h1 : t.inst1 = s.inst1)
    (h2 : t.inst2 = s.inst2) (h3 : t.inst3 = s.inst3) (he : t.error.Clean) : t.Inv := by
  have hc : t.SlotsClean := ⟨h1 ▸ hi.unbound1, h2 ▸ hi.unbound2, h3 ▸ hi.unbound3⟩
  cases hs : s.busy with
  | false => exact .of_idle (hb.trans hs) (hq ▸ hi.idleIffPass.1 hs) (hq ▸ hi.idleRnd hs) he hc
  | true =>
    obtain ⟨hp, hshape⟩ := hi.runShape hs
    exact .of_running (hb.trans hs) ⟨hq ▸ hp, hq ▸ hshape⟩
      ((hi.keysBound hs).congr h1 h2 h3 (congrArg _ hq) (congrArg _ hq)) he hc

/-! Clause (6): the error record -/

/-- Whatever a transaction records, a record without an error stays empty. -/
theorem ErrorRecord.Clean.recordAfter {s : State} (hc : s.error.Clean) {e : ErrorRecord} (he : RecordAfter s e) : e.Clean := by
  obtain rfl | ⟨code, info, rfl⟩ := he
  · exact hc
  · intro h
    rw [raise_err] at h
    cases h

/-- A STATUS write that clears ERR clears ERRCODE and ERRINFO with it, and any other leaves them. -/
theorem ErrorRecord.Clean.statusW1c {s : State} (hc : s.error.Clean) (w : Word) : (statusW1c w s).error.Clean := by
  cases hw : w.getLsbD 2 with
  | true =>
    rw [statusW1c_error_of_bit s hw]
    exact fun _ => ⟨rfl, rfl⟩
  | false =>
    rw [statusW1c_error_of_no_bit s hw]
    exact hc

/-- Every step keeps clause (6). -/
theorem step_keeps_recordClean {s t : State} (hc : s.error.Clean) (h : step s = .next t) : t.error.Clean := by
  obtain he | he | ⟨w, he⟩ := step_error h
  · exact he ▸ fun _ => ⟨rfl, rfl⟩
  · exact hc.recordAfter he
  · exact he ▸ hc.statusW1c w

/-! Clauses (1) to (5) and (7) -/

/-- A slot with a key bound is clean, as it is not unbound. -/
theorem KeySlot.clean_ofKey (key : BitVec 64) : (KeySlot.ofKey key).Clean := fun h => nomatch h

theorem KeySlot.clean_unbound : KeySlot.unbound.Clean := fun _ => rfl

/-- A slot that is bound anew or left as it is stays clean. -/
theorem KeySlot.Clean.ite_ofKey {k : KeySlot} (hk : k.Clean) (p : Prop) [Decidable p] (key : BitVec 64) :
    (if p then KeySlot.ofKey key else k).Clean := by
  split
  · exact clean_ofKey key
  · exact hk

/-- Commands bind instances, erase them or leave them (41_key_schedule.md R176, R177; 45_control.md R261). -/
theorem State.SlotsClean.commandEffect {s : State} (hc : s.SlotsClean) (i : Instr) : (commandEffect i s).SlotsClean := by
  obtain ⟨h1, h2, h3⟩ := hc
  cases i with
  | desSetkey inst len => exact ⟨h1.ite_ofKey _ _, h2.ite_ofKey _ _, h3.ite_ofKey _ _⟩
  | tdeaSetkey len => exact ⟨KeySlot.clean_ofKey _, KeySlot.clean_ofKey _, KeySlot.clean_ofKey _⟩
  | clear => exact ⟨KeySlot.clean_unbound, KeySlot.clean_unbound, KeySlot.clean_unbound⟩
  | nop | desEnc | desDec | tdeaEnc | tdeaDec => exact ⟨h1, h2, h3⟩

/-- The start of a single-DES run on a bound slot (43_des.md R212). -/
theorem State.Inv.start_des {s : State} (hi : s.Inv) {op : BitVec 4} (ho : op = 3 ∨ op = 4) {inst : BitVec 2}
    (h0 : inst ≠ 0) (hb : s.bound inst = true) : (start op inst s).Inv := by
  refine .of_running rfl ⟨(by decide : (1 : BitVec 2) ≠ 0), .inl ⟨ho, rfl, h0⟩⟩ ⟨fun _ => hb, fun h56 => ?_⟩ hi.noError
    ⟨hi.unbound1, hi.unbound2, hi.unbound3⟩
  have h56 : op = 5 ∨ op = 6 := h56
  obtain rfl | rfl := ho <;> simp at h56

/-- The start of a TDEA run with all three slots bound (43_des.md R212, 44_tdea.md R241). -/
theorem State.Inv.start_tdea {s : State} (hi : s.Inv) {op : BitVec 4} (ho : op = 5 ∨ op = 6) (hb : s.allBound = true) :
    (start op 0 s).Inv := by
  refine .of_running rfl ⟨(by decide : (1 : BitVec 2) ≠ 0), .inr ⟨ho, rfl⟩⟩ ⟨fun h34 => ?_, fun _ => hb⟩ hi.noError
    ⟨hi.unbound1, hi.unbound2, hi.unbound3⟩
  have h34 : op = 3 ∨ op = 4 := h34
  obtain rfl | rfl := ho <;> simp at h34

/-- A command that is accepted keeps the invariants. -/
theorem State.Inv.commandEffect {s : State} (hi : s.Inv) {i : Instr} (hk : commandCheck i s = none) :
    (commandEffect i s).Inv := by
  have he : (Machine.commandEffect i s).error.Clean := by
    rw [commandEffect_error]
    exact hi.noError
  have hc := hi.slotsClean.commandEffect i
  cases i with
  | nop | desSetkey | tdeaSetkey =>
    have hb : s.busy = false := idle_of_accepted hk (by simp)
    exact .of_idle hb (hi.idleIffPass.1 hb) (hi.idleRnd hb) he hc
  | clear => exact .of_idle rfl rfl rfl he hc
  | desEnc =>
    obtain ⟨_, h0, _, hb⟩ := desRunCheck_none.1 hk
    exact hi.start_des (.inl rfl) h0 hb
  | desDec =>
    obtain ⟨_, h0, _, hb⟩ := desRunCheck_none.1 hk
    exact hi.start_des (.inr rfl) h0 hb
  | tdeaEnc =>
    obtain ⟨_, _, hb⟩ := tdeaRunCheck_none.1 hk
    exact hi.start_tdea (.inl rfl) hb
  | tdeaDec =>
    obtain ⟨_, _, hb⟩ := tdeaRunCheck_none.1 hk
    exact hi.start_tdea (.inr rfl) hb

/-- An engine step of a busy engine keeps them: while the run goes on its sequencer names a pass, and completion leaves the
sequencer at rest (43_des.md R213, R214). -/
theorem State.Inv.engineStep {s t : State} (hi : s.Inv) (hb : s.busy = true) (h : engineStep s = .next t) : t.Inv := by
  obtain ⟨-, he, ⟨h1, h2, h3⟩, ho, hc⟩ := engineStep_frame h
  have hclean : t.error.Clean := he ▸ hi.noError
  have hslots : t.SlotsClean := ⟨h1 ▸ hi.unbound1, h2 ▸ hi.unbound2, h3 ▸ hi.unbound3⟩
  obtain ⟨hbt, -, -⟩ | ⟨hbt, -, hp, hr⟩ := engineStep_flags h
  · obtain ⟨-, hrun, -⟩ := engineStep_progress (hi.runShape hb) hb h
    exact .of_running (hbt.trans hb) (hrun (hbt.trans hb)).1 ((hi.keysBound hb).congr h1 h2 h3 ho hc) hclean hslots
  · exact .of_idle hbt hp hr hclean hslots

/-- Reset meets the invariants from every state (70_reset_and_hazards.md R340). -/
theorem inv_applyReset (s : State) : (applyReset s).Inv :=
  .of_idle rfl rfl rfl (fun _ => ⟨rfl, rfl⟩) ⟨KeySlot.clean_unbound, KeySlot.clean_unbound, KeySlot.clean_unbound⟩

/-- Settles O53: by the effect of the step. A command and an engine step move the run; every other transition but reset
leaves BUSY, the sequencer and the instances, and each keeps the error record's clause. -/
theorem stepKeepsTheStateInvariants : Obligations.StepKeepsTheStateInvariants := by
  intro s t hi h
  have hclean : t.error.Clean := step_keeps_recordClean hi.noError h
  have hi' : s.turnTaken.Inv := hi.congr rfl rfl rfl rfl rfl hi.noError
  cases step_effect h with
  | reset => exact inv_applyReset _
  | engine _ hb ht => exact hi'.engineStep hb ht
  | record | status | config => exact hi.congr rfl rfl rfl rfl rfl hclean
  | command w i rest _ _ hk => exact (hi'.commandEffect hk).congr rfl rfl rfl rfl rfl hclean

/-- Settles O52: reset leaves the engine idle, unbound and without an error. -/
theorem resetMeetsTheStateInvariants : Obligations.ResetMeetsTheStateInvariants :=
  ⟨inv_applyReset State.reset, by decide, by decide⟩

end Sys2Proof.Machine
end

section
/-! SUPPORT. What a step does to ERRCODE, DOUT, BUSY and DONE: the statements O54, O57, O58 and O59 (10_state.md R37, R38, R41, R47). -/

namespace Sys2Proof.Machine

/-- The codes that are produced are 1 to 7 (60_exceptions.md R301). -/
theorem errCode_toBits_range (code : ErrCode) : code.toBits ≤ 7 ∧ code.toBits ≠ 0 := by cases code <;> decide

/-- An error keeps ERRCODE defined: the first one sets it, a later one leaves it (60_exceptions.md R304). -/
theorem State.ErrorCodeInv.raise {s : State} (hi : s.ErrorCodeInv) (code : ErrCode) (info : Word) :
    (raise code info s).ErrorCodeInv := by
  cases herr : s.error.err with
  | true =>
    rw [raise_later code info s herr]
    exact ⟨hi.codeDefined, hi.codeIffErr⟩
  | false =>
    rw [raise_first code info s herr]
    obtain ⟨hle, hne⟩ := errCode_toBits_range code
    exact ⟨hle, iff_of_false hne (by simp)⟩

/-- A STATUS write clears ERR and ERRCODE together (60_exceptions.md R308). -/
theorem State.ErrorCodeInv.statusW1c {s : State} (hi : s.ErrorCodeInv) (w : Word) : (statusW1c w s).ErrorCodeInv := by
  cases hw : w.getLsbD 2 with
  | true =>
    have he := statusW1c_error_of_bit s hw
    exact ⟨he ▸ (by decide : (0 : BitVec 4) ≤ 7), he ▸ iff_of_true rfl rfl⟩
  | false =>
    have he := statusW1c_error_of_no_bit s hw
    exact ⟨he ▸ hi.codeDefined, he ▸ hi.codeIffErr⟩

/-- The invariant of the error code looks at the error record only. -/
theorem State.ErrorCodeInv.congr {s t : State} (hi : s.ErrorCodeInv) (he : t.error = s.error) : t.ErrorCodeInv :=
  ⟨he ▸ hi.codeDefined, he ▸ hi.codeIffErr⟩

/-- Settles O54: by what a step does to the error record. -/
theorem stepKeepsTheErrorCodeDefined : Obligations.StepKeepsTheErrorCodeDefined := by
  intro s t hi h
  obtain he | (he | ⟨code, info, he⟩) | ⟨w, he⟩ := step_error h
  · exact resetMeetsTheStateInvariants.2.congr he
  · exact hi.congr he
  · exact (hi.raise code info).congr he
  · exact (hi.statusW1c w).congr he

/-- Only CLEAR, of the commands, changes DOUT (10_state.md R47). -/
theorem commandEffect_dout {i : Instr} (hc : i ≠ .clear) (s : State) : (commandEffect i s).dout = s.dout := by
  cases i with
  | clear => exact absurd rfl hc
  | nop | desSetkey | tdeaSetkey | desEnc | desDec | tdeaEnc | tdeaDec => rfl

/-- A command other than CLEAR starts a run, and then its OP is 3 to 6, or completes at once (10_state.md R37, R38). -/
theorem commandEffect_flags {i : Instr} (hc : i ≠ .clear) (s : State) :
    ((commandEffect i s).busy = true ∧ (i.op = 3 ∨ i.op = 4 ∨ i.op = 5 ∨ i.op = 6)) ∨
      ((commandEffect i s).busy = s.busy ∧ (commandEffect i s).done = true) := by
  cases i with
  | clear => exact absurd rfl hc
  | nop | desSetkey | tdeaSetkey => exact .inr ⟨rfl, rfl⟩
  | desEnc | desDec | tdeaEnc | tdeaDec => exact .inl ⟨rfl, by simp [Instr.op]⟩

/-- Settles O57: by the effect of the step; each case that is not listed leaves DOUT. -/
theorem doutChangesOnlyAtCompletionClearReset : Obligations.DoutChangesOnlyAtCompletionClearReset := by
  intro s t h hd
  cases step_effect h with
  | reset hr => exact .inl hr
  | engine hn _ ht =>
    obtain ⟨-, -, hdout⟩ | ⟨hb, hdone, -⟩ := engineStep_flags ht
    · exact absurd hdout hd
    · exact .inr (.inr ⟨hn, hb, hdone⟩)
  | command w i rest _ _ _ hclear =>
    by_cases hc : i = .clear
    · exact .inr (.inl (hclear hc))
    · exact absurd (commandEffect_dout hc s.turnTaken) hd
  | record | status | config => exact absurd rfl hd

/-- Where a step raises BUSY, a cipher command is accepted (10_state.md R37). -/
theorem busy_rises {s t : State} (h : step s = .next t) (hs : s.busy = false) (ht : t.busy = true) :
    ∃ w i rest, s.host = .write 0x08 (.word w) :: rest ∧ decode w = .ok i ∧ t.seq.curop = i.op ∧
      (i.op = 3 ∨ i.op = 4 ∨ i.op = 5 ∨ i.op = 6) := by
  cases step_effect h with
  | reset => cases ht
  | engine _ hb _ => simp [hs] at hb
  | command w i rest hh hd =>
    refine ⟨w, i, rest, hh, hd, commandEffect_curop i s.turnTaken, ?_⟩
    by_cases hc : i = .clear
    · subst hc
      cases ht
    · obtain ⟨-, hop⟩ | ⟨hb, -⟩ := commandEffect_flags hc s.turnTaken
      · exact hop
      · cases hs.symm.trans (hb.symm.trans ht)
  | record | status | config => cases hs.symm.trans ht

/-- Where a step lowers BUSY, the run completes or is abandoned by CLEAR or reset (10_state.md R37). -/
theorem busy_falls {s t : State} (h : step s = .next t) (hs : s.busy = true) (ht : t.busy = false) :
    s.resetNext = true ∨ s.clearNext = true ∨ (s.engineStepNext = true ∧ t.done = true) := by
  cases step_effect h with
  | reset hr => exact .inl hr
  | engine hn _ he =>
    obtain ⟨hb, -, -⟩ | ⟨-, hdone, -⟩ := engineStep_flags he
    · cases hs.symm.trans (hb.symm.trans ht)
    · exact .inr (.inr ⟨hn, hdone⟩)
  | command w i rest _ _ hk hclear =>
    by_cases hc : i = .clear
    · exact .inr (.inl (hclear hc))
    · cases hs.symm.trans (idle_of_accepted (s := s.turnTaken) hk hc)
  | record | status | config => cases hs.symm.trans ht

/-- Settles O58: BUSY rises and falls by the effects that `busy_rises` and `busy_falls` name. -/
theorem busyChangesOnlyAsListed : Obligations.BusyChangesOnlyAsListed := fun _ _ h => ⟨busy_rises h, busy_falls h⟩

/-- Settles O59: by the effect of the step; a command that completes at once and a completing engine step set DONE. -/
theorem doneFallsOnlyAsListed : Obligations.DoneFallsOnlyAsListed := by
  intro s t h hs ht
  cases step_effect h with
  | reset hr => exact .inl hr
  | engine _ _ he =>
    obtain ⟨-, hdone, -⟩ | ⟨-, hdone, -⟩ := engineStep_flags he
    · cases hs.symm.trans (hdone.symm.trans ht)
    · cases hdone.symm.trans ht
  | command w i rest _ _ hk =>
    by_cases hc : i = .clear
    · subst hc
      cases ht
    · obtain ⟨hb, -⟩ | ⟨-, hdone⟩ := commandEffect_flags hc s.turnTaken
      · exact .inr (.inl ⟨idle_of_accepted (s := s.turnTaken) hk hc, hb⟩)
      · cases hdone.symm.trans ht
  | status w rest hh =>
    refine .inr (.inr ⟨w, rest, hh, ?_⟩)
    have hd : (s.done && !w.getLsbD 1) = false := ht
    simpa [hs] using hd
  | record | config => cases hs.symm.trans ht

end Sys2Proof.Machine
end

section
/-! SUPPORT. What reads and writes of the registers show and set: the statements O27 to O30 and O32 to O34 (10_state.md R33 to R54). -/

namespace Sys2Proof.Machine

/-- Settles O27: a read at a register's offset returns the register's value. -/
theorem registersReadAsListed : Obligations.RegistersReadAsListed := fun s =>
  ⟨readData_offset .id s, readData_offset .cmd s, readData_offset .errInfo s,
    readData_offset .kb0 s, readData_offset .kb1 s, readData_offset .kb2 s,
    readData_offset .kb3 s, readData_offset .kb4 s, readData_offset .kb5 s,
    readData_offset .dinHi s, readData_offset .dinLo s, readData_offset .doutHi s, readData_offset .doutLo s⟩

/-! Fields of register words -/

/-- A field at bit 0 is its value, zero-extended. -/
theorem placeField_zero {n : Nat} (v : BitVec n) : placeField v 0 = v.setWidth 32 := BitVec.shiftLeft_zero _

/-- Bit i of a word with one field is bit i - lo of the field's value. -/
theorem getLsbD_placeField {n : Nat} (v : BitVec n) (lo i : Nat) :
    (placeField v lo).getLsbD i = (decide (i < 32) && decide (lo ≤ i) && v.getLsbD (i - lo)) := by
  unfold placeField
  rw [BitVec.getLsbD_shiftLeft, BitVec.getLsbD_setWidth]
  grind

/-- A field is read back from its place. -/
theorem extractLsb'_placeField {n lo : Nat} (v : BitVec n) (h : lo + n ≤ 32) : (placeField v lo).extractLsb' lo n = v := by
  apply BitVec.eq_of_getLsbD_eq
  intro i hi
  rw [BitVec.getLsbD_extractLsb', getLsbD_placeField]
  simp [hi, show lo + i < 32 by omega]

/-- A field shows nothing outside its place. -/
theorem extractLsb'_placeField_of_disjoint {n lo a k : Nat} (v : BitVec n) (h : lo + n ≤ a ∨ a + k ≤ lo) :
    (placeField v lo).extractLsb' a k = 0 := by
  apply BitVec.eq_of_getLsbD_eq
  intro i hi
  rw [BitVec.getLsbD_extractLsb', getLsbD_placeField]
  obtain h | h := h
  · simp [BitVec.getLsbD_of_ge v (a + i - lo) (by omega)]
  · simp [show ¬ lo ≤ a + i by omega]

/-- Settles O28: each bit and field of the STATUS word is that of the one field placed there. -/
theorem statusFieldsAreAsListed : Obligations.StatusFieldsAreAsListed := by
  intro s
  refine ⟨statusWord s, readData_offset .status s, ?_⟩
  unfold statusWord
  simp only [BitVec.getLsbD_or, BitVec.extractLsb'_or, getLsbD_placeField]
  simp [extractLsb'_placeField, extractLsb'_placeField_of_disjoint]

/-- Settles O29: CTRL is written and read at its offset, and irq is computed from it. -/
theorem ctrlHoldsTheTwoEnables : Obligations.CtrlHoldsTheTwoEnables := by
  intro w s
  have hread : ctrlWord s.ctrl =
      (BitVec.ofBool s.ctrl.ieErr).setWidth 32 <<< 1 ||| (BitVec.ofBool s.ctrl.ieDone).setWidth 32 := by
    unfold ctrlWord
    rw [placeField_zero]
    rfl
  exact ⟨memWrite_offset .ctrl w s (by decide), rfl, hread ▸ readData_offset .ctrl s, rfl⟩

/-- Settles O30: RKSEL is written and read at its offset, and the number 0 names no slot. -/
theorem rkselHoldsIndexAndInstance : Obligations.RkselHoldsIndexAndInstance := by
  intro w s
  have hread : rkselWord s.rksel = s.rksel.sel.setWidth 32 <<< 4 ||| s.rksel.ridx.setWidth 32 := by
    unfold rkselWord
    rw [placeField_zero]
    rfl
  exact ⟨memWrite_offset .rksel w s (by decide), hread ▸ readData_offset .rksel s, fun h => h ▸ slot?_zero s, rfl⟩

/-- A bound slot SEL shows its round key RIDX (10_state.md R49). -/
theorem readoutKey_of_bound {s : State} {k : KeySlot} (hk : s.slot? s.rksel.sel = some k) (hv : k.kv = true) :
    readoutKey s = some (roundKey k.cd0 s.rksel.ridx) := by
  unfold readoutKey
  rw [hk]
  exact if_pos hv

/-- An unbound slot, and the number 0, show none (10_state.md R49). -/
theorem readoutKey_of_unbound {s : State} (h : ∀ k, s.slot? s.rksel.sel = some k → k.kv = false) : readoutKey s = none := by
  unfold readoutKey
  cases hk : s.slot? s.rksel.sel with
  | none => rfl
  | some k => exact if_neg (by simp [h k hk])

/-- A word read of a register changes nothing but the host's record of what it read (20_memory.md R73). -/
theorem memRead_offset (r : Reg) (s : State) :
    memRead r.offset .word s = { s with reads := readData r.offset .word s :: s.reads } := by
  rw [readData_offset]
  exact memRead_legal (legalRead_offset r)

/-- Settles O32: RK_HI and RK_LO are the two parts of the key the readout shows, and reads of them are legal. -/
theorem roundKeyReadoutShowsTheSelectedKey : Obligations.RoundKeyReadoutShowsTheSelectedKey := by
  intro s
  have hhi : readData 0x54 .word s = .word (rkHiWord s) := readData_offset .rkHi s
  have hlo : readData 0x58 .word s = .word (rkLoWord s) := readData_offset .rkLo s
  refine ⟨fun k hk hv => ?_, fun h => ?_, ⟨slot?_zero s, slot?_one s, slot?_two s, slot?_three s⟩,
    memRead_offset .rkHi s, memRead_offset .rkLo s⟩
  · have hkey := readoutKey_of_bound hk hv
    rw [hhi, hlo, rkHiWord, rkLoWord, hkey, BitVec.ofNat_toNat]
    exact ⟨rfl, rfl⟩
  · have hkey := readoutKey_of_unbound h
    rw [hhi, hlo, rkHiWord, rkLoWord, hkey]
    exact ⟨rfl, rfl⟩

/-- No register shows the half-blocks (10_state.md R51). -/
theorem value_setHalves (reg : Reg) (s : State) (l r : BitVec 32) :
    reg.value { s with l := l, r := r } = reg.value s := by cases reg <;> rfl

/-- Settles O33: a read returns zeros or a register's value, and neither depends on L and R. -/
theorem halfBlocksAreUnreadable : Obligations.HalfBlocksAreUnreadable := by
  intro off size s l r
  refine ⟨?_, rfl⟩
  unfold readData
  cases legalRead off size with
  | none => rfl
  | some reg => exact congrArg BusData.word (value_setHalves reg s l r)

/-- Settles O34: writing 0 to CTRL takes both enables away, and a completing engine step sets DONE and leaves CTRL. -/
theorem irqFollowsDoneAndErr : Obligations.IrqFollowsDoneAndErr := by
  intro s
  refine ⟨rfl, ⟨_, memWrite_offset .ctrl 0 s (by decide), rfl, rfl, rfl⟩, fun t h hs ht hie => ?_⟩
  obtain ⟨hb, -, -⟩ | ⟨-, hdone, -⟩ := engineStep_flags h
  · cases hs.symm.trans (hb.symm.trans ht)
  · simp [irq, (engineStep_frame h).1, hdone, hie]

end Sys2Proof.Machine
end


section
/-! SUPPORT. Host transactions and the placement of the register space: the statements O9, O26, O31 and O35 (20_memory.md R70 to R74; 30_encoding.md R109). -/

namespace Sys2Proof.Machine

/-! The host's turn, by the statement that stands next in its program -/

/-- A read is performed and leaves the program (20_memory.md R71). -/
theorem hostTurn_of_read {s : State} {off : Offset} {size : AccessSize} {rest : List HostStmt}
    (hh : s.host = .read off size :: rest) : hostTurn s = .next (memRead off size { s with host := rest }) := by
  unfold hostTurn
  rw [hh]

/-- A write is performed and leaves the program (20_memory.md R71). -/
theorem hostTurn_of_write {s : State} {off : Offset} {data : BusData} {rest : List HostStmt}
    (hh : s.host = .write off data :: rest) : hostTurn s = memWrite off data { s with host := rest } := by
  unfold hostTurn
  rw [hh]

/-- A poll performs one read, and stays in the program unless the word it compares matches (30_encoding.md R109). -/
theorem hostTurn_of_poll {s : State} {off : Offset} {mask val : Word} {rest : List HostStmt}
    (hh : s.host = .poll off mask val :: rest) :
    hostTurn s = .next (memRead off .word
      { s with host := if polledWord off s &&& mask = val then rest else s.host }) := by
  unfold hostTurn
  rw [hh]
  dsimp only
  split
  · rfl
  · rw [← hh]

/-- No register shows the schedule (10_state.md R32; log 2). -/
theorem value_setSched (reg : Reg) (s : State) (turns : List Turn) :
    reg.value { s with sched := turns } = reg.value s := by cases reg <;> rfl

/-- A read returns the same data before and after the turn is taken off the schedule. -/
theorem readData_setSched (off : Offset) (size : AccessSize) (s : State) (turns : List Turn) :
    readData off size { s with sched := turns } = readData off size s := by
  unfold readData
  cases legalRead off size with
  | none => rfl
  | some reg => exact congrArg BusData.word (value_setSched reg s turns)

/-- The word a poll compares is the word its read returns. -/
theorem polledWord_of_readData {off : Offset} {s : State} {w : Word} (hw : readData off .word s = .word w) :
    polledWord off s = w := by
  unfold polledWord
  rw [hw]

/-- Settles O9: in the host's turn the step is the transition of the statement that stands next; the word a poll compares is
read once the turn is taken off the schedule, which no register shows. -/
theorem hostTurnMakesOneTransaction : Obligations.HostTurnMakesOneTransaction := by
  intro s turns rest off hs
  refine ⟨fun size hh => ?_, fun data hh => ?_, fun mask val w hh hw => ?_⟩
  · exact (step_of_sched_cons hs).trans (hostTurn_of_read hh)
  · exact (step_of_sched_cons hs).trans (hostTurn_of_write hh)
  · have hp : polledWord off { s with sched := turns } = w :=
      polledWord_of_readData ((readData_setSched off .word s turns).trans hw)
    rw [← hp]
    exact (step_of_sched_cons hs).trans (hostTurn_of_poll hh)

/-- Settles O26: a word read at a register's offset is legal, so it only adds the register's value to what the host has read. -/
theorem legalReadsChangeNothing : Obligations.LegalReadsChangeNothing := fun r s =>
  ⟨readData_offset r s, memRead_legal (legalRead_offset r)⟩

/-- Settles O31: none of these registers is read-only, so the write is legal and has the register's own effect. -/
theorem dataRegisterWritesChangeThatRegister : Obligations.DataRegisterWritesChangeThatRegister := fun w s =>
  ⟨memWrite_offset .kb0 w s (by decide), memWrite_offset .kb1 w s (by decide), memWrite_offset .kb2 w s (by decide),
    memWrite_offset .kb3 w s (by decide), memWrite_offset .kb4 w s (by decide), memWrite_offset .kb5 w s (by decide),
    memWrite_offset .dinHi w s (by decide), memWrite_offset .dinLo w s (by decide), memWrite_offset .cmd w s (by decide)⟩

/-! The placement of the register space -/

/-- An address reaches an offset exactly when it is that offset's host address (20_memory.md R70; log 6). -/
theorem offsetOfAddress_eq_some_iff {addr : Nat} {off : Offset} :
    offsetOfAddress addr = some off ↔ addr = hostAddress off := by
  unfold offsetOfAddress hostAddress
  constructor
  · intro h
    obtain ⟨⟨hlo, hhi⟩, hoff⟩ := Option.ite_none_right_eq_some.mp h
    have hval : off.toNat = (addr - Config.engineBase) % 256 := by
      rw [← Option.some.inj hoff, BitVec.toNat_ofNat]
    omega
  · rintro rfl
    have hlt := off.isLt
    rw [if_pos (by omega), Nat.add_sub_cancel_left, BitVec.ofNat_toNat, BitVec.setWidth_eq]

/-- Settles O35: both clauses are the two directions of one equivalence. -/
theorem engineBasePlacesTheOffsets : Obligations.EngineBasePlacesTheOffsets :=
  ⟨fun _ => offsetOfAddress_eq_some_iff.mpr rfl, fun _ _ => offsetOfAddress_eq_some_iff.mp⟩

end Sys2Proof.Machine
end

section
/-! SUPPORT. The decoder as the inverse of the encoder, and the words it rejects: the statements O1 to O5 (30_encoding.md R101 to R107). -/

namespace Sys2Proof

/-- An encoded word decodes by the case over its fields: its reserved fields are 0 (30_encoding.md R106). -/
@[simp] theorem decode_encodeFields (op : BitVec 4) (inst : BitVec 2) (len : BitVec 5) :
    decode (encodeFields op inst len) = decodeFields op inst len := by
  unfold decode
  simp

/-- The fields of a command decode to it: each constructor has its own OP, and an operand it lacks is 0
(30_encoding.md R102, R106). -/
theorem decodeFields_of_command (i : Instr) : decodeFields i.op i.instField i.lenField = .ok i := by
  cases i <;> rfl

/-- Fields that decode are those of the command they decode to: a branch that answers a command fixes OP, and has checked
that an operand the command lacks is 0 (30_encoding.md R106). -/
theorem fields_of_decodeFields_ok {op : BitVec 4} {inst : BitVec 2} {len : BitVec 5} {i : Instr}
    (h : decodeFields op inst len = .ok i) : i.op = op ∧ i.instField = inst ∧ i.lenField = len := by
  unfold decodeFields at h
  split_ifs at h
  all_goals cases h
  all_goals simp_all [Instr.op, Instr.instField, Instr.lenField]

/-- A word that decodes has both reserved fields 0, and its other fields are those of the command (30_encoding.md R106). -/
theorem fields_of_decode_ok {w : Word} {i : Instr} (h : decode w = .ok i) :
    fieldRsv1 w = 0 ∧ fieldRsv0 w = 0 ∧ i.op = fieldOp w ∧ i.instField = fieldInst w ∧ i.lenField = fieldLen w := by
  unfold decode at h
  split at h
  · cases h
  · rename_i hr
    push Not at hr
    exact ⟨hr.1, hr.2, fields_of_decodeFields_ok h⟩

/-- Settles O4: the decoder reads back the three fields of the encoded word, and they are the command's own. -/
theorem decodeOfEncodeIsTheCommand : Obligations.DecodeOfEncodeIsTheCommand := fun i =>
  (decode_encodeFields _ _ _).trans (decodeFields_of_command i)

/-- Settles O5: a word whose reserved fields are 0 is the encoding of its fields, and they are the command's own. -/
theorem encodeOfDecodedIsTheWord : Obligations.EncodeOfDecodedIsTheWord := by
  intro w i h
  obtain ⟨h1, h0, hop, hinst, hlen⟩ := fields_of_decode_ok h
  unfold encode
  rw [hop, hinst, hlen, encodeFields_fields w h1 h0]

/-- Settles O1: the formula is the encoder's definition, and each word listed is its value. -/
theorem canonicalWordsAreAsListed : Obligations.CanonicalWordsAreAsListed := ⟨fun _ => rfl, by decide⟩

/-- Settles O2, by running the decoder on the eight words. -/
theorem wordsOfTheOpcodeMapDecode : Obligations.WordsOfTheOpcodeMapDecode := by
  unfold Obligations.WordsOfTheOpcodeMapDecode
  decide

/-! The words that do not decode -/

/-- The last three conditions of 30_encoding.md R105, those on OP, INST and LEN; reservedWord_iff ties them to
reservedWord. -/
def reservedFields (op : BitVec 4) (inst : BitVec 2) (len : BitVec 5) : Bool :=
  8 ≤ op.toNat || (inst != 0 && [0, 2, 5, 6, 7].contains op.toNat) || (len != 0 && [0, 7].contains op.toNat)

/-- A word is reserved by its two reserved fields or by the other three (30_encoding.md R105). -/
theorem reservedWord_iff (w : Word) : Machine.reservedWord w = true ↔
    (fieldRsv1 w ≠ 0 ∨ fieldRsv0 w ≠ 0) ∨ reservedFields (fieldOp w) (fieldInst w) (fieldLen w) = true := by
  have hsplit : Machine.reservedWord w =
      (fieldRsv1 w != 0 || fieldRsv0 w != 0 || reservedFields (fieldOp w) (fieldInst w) (fieldLen w)) := by
    unfold Machine.reservedWord reservedFields
    simp only [Bool.or_assoc]
    rfl
  rw [hsplit, Bool.or_eq_true, Bool.or_eq_true, bne_iff_ne, bne_iff_ne]

/-- The fields of a command are not reserved. -/
theorem reservedFields_of_command (i : Instr) : reservedFields i.op i.instField i.lenField = false := by
  cases i <;> simp [reservedFields, Instr.op, Instr.instField, Instr.lenField]

/-- Fields that do not decode are reserved, by the check of the branch taken, and the code is BADCMD
(30_encoding.md R105, R106). -/
theorem reservedFields_of_decodeFields_bad {op : BitVec 4} {inst : BitVec 2} {len : BitVec 5} {code : ErrCode}
    (h : decodeFields op inst len = .bad code) : code = .badCmd ∧ reservedFields op inst len = true := by
  unfold decodeFields at h
  split_ifs at h
  all_goals cases h
  all_goals refine ⟨rfl, ?_⟩
  case neg.refl =>
    have hop : 8 ≤ op.toNat := by bv_omega
    simp [reservedFields, hop]
  all_goals simp_all [reservedFields]

/-- A word that does not decode is reserved, and the code is BADCMD (30_encoding.md R105, R106). -/
theorem reservedWord_of_decode_bad {w : Word} {code : ErrCode} (h : decode w = .bad code) :
    code = .badCmd ∧ Machine.reservedWord w = true := by
  rw [reservedWord_iff]
  unfold decode at h
  split at h
  · rename_i hr
    cases h
    exact ⟨rfl, .inl hr⟩
  · exact (reservedFields_of_decodeFields_bad h).imp_right .inr

/-- A word that decodes is not reserved (30_encoding.md R105). -/
theorem not_reservedWord_of_decode_ok {w : Word} {i : Instr} (h : decode w = .ok i) : Machine.reservedWord w = false := by
  obtain ⟨h1, h0, hop, hinst, hlen⟩ := fields_of_decode_ok h
  rw [← Bool.not_eq_true, reservedWord_iff, ← hop, ← hinst, ← hlen, reservedFields_of_command]
  simp only [h1, h0, ne_eq, not_true_eq_false, or_self, Bool.false_eq_true, not_false_eq_true]

end Sys2Proof

namespace Sys2Proof.Machine

/-- The submission of a word that does not decode raises BADCMD (60_exceptions.md R303). -/
theorem submitCommand_of_decode_bad {w : Word} {code : ErrCode} (s : State) (h : decode w = .bad code) :
    submitCommand w s = .next (raise .badCmd w s) := by
  obtain ⟨rfl, -⟩ := reservedWord_of_decode_bad h
  unfold submitCommand
  rw [h]

/-- The submission of a word that decodes runs the command (60_exceptions.md R303). -/
theorem submitCommand_of_decode_ok {w : Word} {i : Instr} (s : State) (h : decode w = .ok i) :
    submitCommand w s = exec i s := by
  unfold submitCommand
  rw [h]

/-- Settles O3: a word that decodes is not reserved, and one that does not is reserved and rejected with BADCMD. -/
theorem reservedWordsAreRejected : Obligations.ReservedWordsAreRejected := by
  intro w s
  cases hd : decode w with
  | ok i =>
    have hr := not_reservedWord_of_decode_ok hd
    exact ⟨fun h => absurd h (by simp [hr]), fun _ => ⟨i, rfl⟩⟩
  | bad code =>
    have hr := (reservedWord_of_decode_bad hd).2
    exact ⟨fun _ => submitCommand_of_decode_bad s hd, fun h => absurd h (by simp [hr])⟩

end Sys2Proof.Machine
end

section
/-! SUPPORT. Register writes that stand next in the host's program: the statements O6 and O60 (30_encoding.md R100, R109, R110). -/

namespace Sys2Proof.Machine

/-- The host's write of a word to CMD submits it (60_exceptions.md R303). -/
theorem hostTurn_of_submission {s : State} {w : Word} {rest : List HostStmt}
    (hh : s.host = .write 0x08 (.word w) :: rest) : hostTurn s = submitCommand w { s with host := rest } :=
  (hostTurn_of_write hh).trans (memWrite_offset .cmd w _ (by decide))

/-- Settles O6: in the host's turn, fixed or by default, the write to CMD submits the word, which decodes to the command. -/
theorem stepRunsTheSubmittedCommand : Obligations.StepRunsTheSubmittedCommand := by
  intro s w i rest hh hd
  refine ⟨fun turns hs => ?_, fun hs hb => ?_⟩
  · calc step s = hostTurn { s with sched := turns } := step_of_sched_cons hs
      _ = submitCommand w { s with host := rest, sched := turns } := hostTurn_of_submission hh
      _ = exec i { s with host := rest, sched := turns } := submitCommand_of_decode_ok _ hd
  · calc step s = hostTurn s := step_of_sched_nil_idle hs hb
      _ = submitCommand w { s with host := rest } := hostTurn_of_submission hh
      _ = exec i { s with host := rest } := submitCommand_of_decode_ok _ hd

/-- In the host's turn, `wr` writes the register it names (30_encoding.md R109). -/
theorem step_of_wr {s : State} {r : Reg} {w : Word} {rest : List HostStmt} {turns : List Turn}
    (hs : s.sched = .host :: turns) (hh : s.host = wr r w :: rest) (hr : r.access ≠ .ro) :
    step s = writeReg r w { s with host := rest, sched := turns } :=
  calc step s = hostTurn { s with sched := turns } := step_of_sched_cons hs
    _ = memWrite r.offset (.word w) { s with host := rest, sched := turns } := hostTurn_of_write hh
    _ = writeReg r w { s with host := rest, sched := turns } := memWrite_offset r w _ hr

/-- Two host turns perform the two `wr` that stand next in the program, where the first leaves program and turns alone. -/
theorem core_run_two_writes {s t u : State} {r r' : Reg} {w w' : Word} {rest : List HostStmt} {turns : List Turn}
    (hs : s.sched = .host :: .host :: turns) (hh : s.host = wr r w :: wr r' w' :: rest)
    (hr : r.access ≠ .ro) (hr' : r'.access ≠ .ro)
    (hw : writeReg r w { s with host := wr r' w' :: rest, sched := .host :: turns } = .next t)
    (ht : t.host = wr r' w' :: rest) (hts : t.sched = .host :: turns)
    (hw' : writeReg r' w' { t with host := rest, sched := turns } = .next u) : core.run 2 s = .next u :=
  calc core.run 2 s = core.run 1 t := core_run_succ 1 ((step_of_wr hs hh hr).trans hw)
    _ = core.run 0 u := core_run_succ 0 ((step_of_wr hts ht hr').trans hw')
    _ = .next u := core_run_zero u

/-- Settles O60: each load is two writes, of the two halves of the value. -/
theorem loadsFillTheNamedRegisters : Obligations.LoadsFillTheNamedRegisters := by
  intro s x rest turns hs
  refine ⟨fun hh => ⟨{ s.kb with kb0 := slice x 0 32, kb1 := slice x 32 32 }, ?_, slice_append_slice x, rfl⟩,
    fun hh => ⟨{ s.kb with kb2 := slice x 0 32, kb3 := slice x 32 32 }, ?_, slice_append_slice x, rfl⟩,
    fun hh => ⟨{ s.kb with kb4 := slice x 0 32, kb5 := slice x 32 32 }, ?_, slice_append_slice x, rfl⟩,
    fun hh => ⟨{ hi := slice x 0 32, lo := slice x 32 32 }, ?_, slice_append_slice x⟩⟩
  all_goals exact core_run_two_writes hs hh (by decide) (by decide) rfl rfl rfl rfl

end Sys2Proof.Machine
end

section
/-! SUPPORT. The structure of the fixed tables, and IPinv as the inverse of IP: the statements O36 and O37 (40_tables.md R133, R148). -/

namespace Sys2Proof.Machine

/-- In table terms IPinv is the inverse of IP: part (6) of what tables_wellFormed checks (40_tables.md R133). -/
theorem ipInvTable_getD_ipTable (i : Nat) (hi : i < 64) : ipInvTable.getD (ipTable.getD i 0 - 1) 0 = i + 1 := by
  have hw := tables_wellFormed
  simp only [tablesWellFormed, inverseTables, Bool.and_eq_true, List.all_eq_true, List.mem_range, beq_iff_eq] at hw
  obtain ⟨⟨-, hinverse⟩, -⟩ := hw
  exact hinverse i hi

/-- In table terms IP is the inverse of IPinv, which R148 does not list. -/
theorem ipTable_getD_ipInvTable : ∀ i, i < 64 → ipTable.getD (ipInvTable.getD i 0 - 1) 0 = i + 1 := by decide

/-- A table entry that is not 0 lies within the table. -/
theorem lt_length_of_getD_eq_succ {table : List Nat} {j k : Nat} (h : table.getD j 0 = k + 1) : j < table.length := by
  by_contra hj
  rw [List.getD_eq_default _ _ (Nat.le_of_not_lt hj)] at h
  cases h

/-- Two tables that are inverse as tables are inverse as wirings: bit i of the result is the input's bit
`inner[outer[i] - 1] - 1`, which is bit i (40_tables.md R133). -/
theorem permute_permute_of_inverse {n m : Nat} {outer inner : List Nat} (ho : outer.length = n) (hi : inner.length = m)
    (hinv : ∀ i, i < n → inner.getD (outer.getD i 0 - 1) 0 = i + 1) (x : BitVec n) :
    permute n outer (permute m inner x) = x := by
  apply bits_ext
  intro i hin
  have hlt : outer.getD i 0 - 1 < m := hi ▸ lt_length_of_getD_eq_succ (hinv i hin)
  calc bit (permute n outer (permute m inner x)) i
      _ = bit (permute m inner x) (outer.getD i 0 - 1) := bit_permute outer _ ho i hin
      _ = bit x (inner.getD (outer.getD i 0 - 1) 0 - 1) := bit_permute inner x hi _ hlt
      _ = bit x i := by rw [hinv i hin, Nat.add_sub_cancel]

/-- Settles O36: the tables are inverse of each other as tables, so their wirings are. -/
theorem finalPermutationInvertsTheInitial : Obligations.FinalPermutationInvertsTheInitial :=
  ⟨permute_permute_of_inverse ipInvTable_length ipTable_length ipTable_getD_ipInvTable,
    permute_permute_of_inverse ipTable_length ipInvTable_length ipInvTable_getD_ipTable,
    ipInvTable_getD_ipTable⟩

/-- E lists the numbers 1..32, and 16 of them once more (40_tables.md R136). -/
theorem eTable_isPerm :
    (List.range' 1 32 ++ [1, 4, 5, 8, 9, 12, 13, 16, 17, 20, 21, 24, 25, 28, 29, 32]).isPerm eTable = true := by decide

/-- Settles O37: parts (1) to (3), (5) and (7) are what tables_wellFormed checks; E is checked entry by entry. -/
theorem tablesHaveTheirStructure : Obligations.TablesHaveTheirStructure := by
  have hw := tables_wellFormed
  simp only [tablesWellFormed, permutationTables, choiceTables, substitutionTables, shiftSchedule, listsOnce,
    Bool.and_eq_true, List.all_eq_true, List.mem_range, beq_iff_eq] at hw
  obtain ⟨⟨⟨⟨⟨⟨⟨⟨hip, hipInv⟩, hp⟩, hpc1, hpc2⟩, -⟩, -⟩, hsbox⟩, -⟩, hshifts⟩ := hw
  exact ⟨hip, hipInv, hp, hpc1, hpc2, eTable_isPerm, hsbox, hshifts⟩

end Sys2Proof.Machine
end

section
/-! SUPPORT. What a key binding stores, and when: the statements O12, O13, O38 and O56 (41_key_schedule.md R171, R176 to R179). -/

namespace Sys2Proof.Machine

/-- A command that passes its checks has its effect (60_exceptions.md R303). -/
theorem exec_of_accepted {i : Instr} {s : State} (hk : commandCheck i s = none) : exec i s = .next (commandEffect i s) := by
  rw [exec_eq, hk, accept_none]

/-- DES_SETKEY of eight bytes, on an idle engine, binds its instance and completes (41_key_schedule.md R176). -/
theorem exec_desSetkey {s : State} (hb : s.busy = false) {inst : BitVec 2} (hi : inst ≠ 0) :
    exec (.desSetkey inst 8) s = .next (completeAtOnce 0x1 (bindKey inst s.kb.seg0 s)) :=
  exec_of_accepted (i := .desSetkey inst 8) (desSetkeyCheck_none.mpr ⟨hb, hi, rfl⟩)

/-- TDEA_SETKEY of a legal length, on an idle engine, binds the three instances and completes (41_key_schedule.md R177). -/
theorem exec_tdeaSetkey {s : State} (hb : s.busy = false) {len : BitVec 5} (hl : len = 8 ∨ len = 16 ∨ len = 24) :
    exec (.tdeaSetkey len) s =
      .next (completeAtOnce 0x2 (bindAll s.kb.seg0 (s.kb.tdeaKey2 len) (s.kb.tdeaKey3 len) s)) :=
  exec_of_accepted (i := .tdeaSetkey len) (tdeaSetkeyCheck_none.mpr ⟨hb, hl⟩)

/-- Settles O12: the command is accepted for each of the three instances, and `bindKey` writes the one it names. -/
theorem desSetkeyBindsTheNamedInstance : Obligations.DesSetkeyBindsTheNamedInstance := fun _ hb =>
  ⟨exec_desSetkey hb (by decide), exec_desSetkey hb (by decide), exec_desSetkey hb (by decide)⟩

/-- Settles O13: each of the three lengths is accepted, and `tdeaKey2` and `tdeaKey3` select its keys. -/
theorem tdeaSetkeyBindsTheThreeInstances : Obligations.TdeaSetkeyBindsTheThreeInstances := fun _ hb =>
  ⟨exec_tdeaSetkey hb (by decide), exec_tdeaSetkey hb (by decide), exec_tdeaSetkey hb (by decide)⟩

/-- `permute` reads only the bits its table lists (00_scope.md R16). -/
theorem permute_congr {n : Nat} (m : Nat) {table : List Nat} {v w : BitVec n}
    (h : ∀ t ∈ table, bit v (t - 1) = bit w (t - 1)) : permute m table v = permute m table w := by
  unfold permute
  rw [List.map_congr_left h]

/-- PC1 lists no parity bit, the numbers divisible by 8 (40_tables.md R134, R148). -/
theorem pc1Table_omits_parity : ∀ t ∈ pc1Table, t % 8 ≠ 0 := by decide

/-- PC1 does not read the parity bits (41_key_schedule.md R171). -/
theorem pc1_congr {k1 k2 : BitVec 64} (h : ∀ i, i < 64 → i % 8 ≠ 7 → bit k1 i = bit k2 i) : pc1 k1 = pc1 k2 :=
  permute_congr 56 fun t ht => by
    have hbound := pc1Table_bounded t ht
    have hparity := pc1Table_omits_parity t ht
    exact h (t - 1) (by omega) (by omega)

/-- Settles O38: an instance holds of its key only what PC1 reads. -/
theorem parityBitsDoNotReachTheKey : Obligations.ParityBitsDoNotReachTheKey := by
  intro k1 k2 h
  unfold KeySlot.ofKey
  rw [pc1_congr h]

/-- Only the two SETKEY commands, of the commands other than CLEAR, change an instance (41_key_schedule.md R179). -/
theorem commandEffect_instances {i : Instr} (hc : i ≠ .clear) (s : State) :
    (i.op = 1 ∨ i.op = 2) ∨
      ((commandEffect i s).inst1 = s.inst1 ∧ (commandEffect i s).inst2 = s.inst2 ∧ (commandEffect i s).inst3 = s.inst3) := by
  cases i with
  | clear => exact absurd rfl hc
  | desSetkey => exact .inl (.inl rfl)
  | tdeaSetkey => exact .inl (.inr rfl)
  | nop | desEnc | desDec | tdeaEnc | tdeaDec => exact .inr ⟨rfl, rfl, rfl⟩

/-- Settles O56: a reset is listed and an engine's turn leaves the instances, so a change is the host's, by a command. -/
theorem keysChangeOnlyBySetkeyClearReset : Obligations.KeysChangeOnlyBySetkeyClearReset := by
  intro s t h hchange
  obtain ⟨hr, -⟩ | ⟨-, -, hs⟩ | ⟨-, -, hs⟩ | ⟨ht, hs⟩ := step_cases s
  · exact .inl hr
  · obtain ⟨-, -, hkept, -⟩ := engineStep_frame (hs.symm.trans h)
    exact absurd hkept hchange
  · cases hs.symm.trans h
    exact absurd ⟨rfl, rfl, rfl⟩ hchange
  · obtain ⟨host, reads, e, rfl, -⟩ | ⟨w, i, rest, hh, hd, hk, rfl⟩ | ⟨r, w, rest, -, hc, hw⟩ :=
      hostTurn_effect (hs.symm.trans h)
    · exact absurd ⟨rfl, rfl, rfl⟩ hchange
    · by_cases hc : i = .clear
      · subst hc
        exact .inr (.inl ⟨clearNext_of_decode ht hh hd, rfl⟩)
      · obtain hop | hkept := commandEffect_instances hc s.turnTaken
        · exact .inr (.inr ⟨idle_of_accepted (s := s.turnTaken) hk hc, ht, w, i, rest, hh, hd,
            commandEffect_curop i s.turnTaken, hop⟩)
        · exact absurd hkept hchange
    · obtain ⟨c, kb, d, k, rfl⟩ | ⟨-, rfl⟩ := writeReg_effect hc hw <;>
        exact absurd ⟨rfl, rfl, rfl⟩ hchange

end Sys2Proof.Machine
end

section
/-! SUPPORT. Rotations of the key halves, and the running key schedule: the statement O39 (41_key_schedule.md R173 to R175). -/

namespace Sys2Proof.Machine

/-- A rotation by a multiple of the width changes nothing (00_scope.md R16). -/
theorem rotl_of_dvd {n s : Nat} (v : BitVec n) (h : n ∣ s) : rotl v s = v := by
  obtain ⟨k, rfl⟩ := h
  apply bits_ext
  intro i hi
  rw [bit_rotl _ _ _ hi, Nat.add_mul_mod_self_left, Nat.mod_eq_of_lt hi]

/-- Left rotations add up (00_scope.md R16). -/
theorem rotl_rotl {n : Nat} (v : BitVec n) (a b : Nat) : rotl (rotl v a) b = rotl v (a + b) := by
  apply bits_ext
  intro i hi
  have hlt : (i + b) % n < n := Nat.mod_lt _ (by omega)
  rw [bit_rotl _ _ _ hi, bit_rotl _ _ _ hlt, bit_rotl _ _ _ hi, Nat.mod_add_mod, Nat.add_assoc, Nat.add_comm b a]

/-- Left rotations one after another are one rotation by their sum. -/
theorem foldl_rotl {n : Nat} (ns : List Nat) (v : BitVec n) : ns.foldl rotl v = rotl v ns.sum := by
  induction ns generalizing v with
  | nil => exact (rotl_of_dvd v (Nat.dvd_zero n)).symm
  | cons k ns ih => rw [List.foldl_cons, ih, rotl_rotl, List.sum_cons]

/-- A right rotation undoes the left rotation by the same number. -/
theorem rotr_rotl (v : BitVec 28) (n : Nat) : rotr (rotl v n) n = v := by
  apply bits_ext
  intro i hi
  unfold rotr
  rw [bit, BitVec.getMsbD_rotateRight, decide_eq_true hi, Bool.true_and]
  split
  all_goals
    refine (bit_rotl v n _ (by omega)).trans (congrArg (bit v) ?_)
    omega

/-- Right rotations by the numbers of a list, the last first, take their sum off a left rotation. -/
theorem foldl_reverse_rotr (ns : List Nat) (v : BitVec 28) (a : Nat) :
    ns.reverse.foldl rotr (rotl v (a + ns.sum)) = rotl v a := by
  induction ns generalizing a with
  | nil => rfl
  | cons k ns ih =>
    rw [List.reverse_cons, List.foldl_append, List.sum_cons, ← Nat.add_assoc, ih, ← rotl_rotl]
    exact rotr_rotl _ k

/-- Encryption's running half is the cumulative rotation (41_key_schedule.md R173, R175). -/
theorem runningLeft_eq (v : BitVec 28) (r : Nat) : runningLeft v r = rotl v (cum r) := foldl_rotl _ v

/-- What is left of the shifts after round r completes `cum r` to the width 28 (40_tables.md R147, R148). -/
theorem cum_add_sum_drop (r : Nat) : cum r + (shifts.drop (r + 1)).sum = 28 :=
  (List.sum_take_add_sum_drop shifts (r + 1)).trans (by decide)

/-- Decryption's running half is the cumulative rotation: it starts at the half rotated by the sum of all shifts, from which
the right rotations take those of the rounds after r (41_key_schedule.md R173, R175). -/
theorem runningRight_eq (v : BitVec 28) (r : Nat) : runningRight v r = rotl v (cum r) :=
  calc runningRight v r
      _ = (shifts.drop (r + 1)).reverse.foldl rotr (rotl v (cum r + (shifts.drop (r + 1)).sum)) := by
        rw [cum_add_sum_drop, rotl_of_dvd v dvd_rfl, runningRight]
      _ = rotl v (cum r) := foldl_reverse_rotr _ v _

/-- Settles O39: the halves of both running realisations are the cumulative rotations. -/
theorem runningKeyScheduleAgrees : Obligations.RunningKeyScheduleAgrees := by
  intro cd0 r
  refine ⟨rotl_of_dvd _ dvd_rfl, rotl_of_dvd _ dvd_rfl, ?_, ?_⟩
  · rw [runningLeft_eq, runningLeft_eq, roundKey]
  · rw [runningRight_eq, runningRight_eq, roundKey]

end Sys2Proof.Machine
end

section
/-! SUPPORT. The DES function as a Feistel network, whatever its round function: the statements O40 and O44 (43_des.md R211, R215, R218). -/

namespace Sys2Proof.Machine

/-- A round on the swapped halves, with the same key, takes the round back (43_des.md R218). -/
theorem feistelRound_swap_feistelRound (k : BitVec 48) (h : Halves) :
    feistelRound k (feistelRound k h).swap = h.swap := by
  simp [feistelRound, Prod.swap]

/-- The rounds of an order, with the halves swapped, are taken back by the rounds of the reversed order. -/
theorem desRounds_reverse_swap_desRounds (cd0 : BitVec 56) (order : List (BitVec 4)) (h : Halves) :
    desRounds cd0 order.reverse (desRounds cd0 order h).swap = h.swap := by
  induction order generalizing h with
  | nil => rfl
  | cons r rest ih =>
    calc desRounds cd0 (r :: rest).reverse (desRounds cd0 (r :: rest) h).swap
        _ = feistelRound (roundKey cd0 r)
              (desRounds cd0 rest.reverse (desRounds cd0 rest (feistelRound (roundKey cd0 r) h)).swap) := by
          simp only [desRounds, List.reverse_cons, List.foldl_append, List.foldl_cons, List.foldl_nil]
        _ = feistelRound (roundKey cd0 r) (feistelRound (roundKey cd0 r) h).swap := by rw [ih]
        _ = h.swap := feistelRound_swap_feistelRound _ h

/-- Joining undoes the final swap, so splitting again gives the halves swapped (43_des.md R211; 40_tables.md R133). -/
theorem splitBlock_joinHalves (h : Halves) : splitBlock (joinHalves h) = h.swap := by
  unfold splitBlock joinHalves
  rw [finalPermutationInvertsTheInitial.2.1, slice_append_left, slice_append_right]
  rfl

/-- The swapped halves of a block, joined, are the block. -/
theorem joinHalves_swap_splitBlock (x : BitVec 64) : joinHalves (splitBlock x).swap = x := by
  unfold splitBlock joinHalves
  rw [Prod.swap_prod_mk, slice_append_slice, finalPermutationInvertsTheInitial.1]

/-- Two passes under one key whose round orders are the reverse of each other give the block back (43_des.md R218). -/
theorem des_des_of_reverse {d d' : Dir} (hr : roundOrder d' = (roundOrder d).reverse) (cd0 : BitVec 56) (x : BitVec 64) :
    des d' cd0 (des d cd0 x) = x := by
  unfold des
  rw [splitBlock_joinHalves, hr, desRounds_reverse_swap_desRounds, joinHalves_swap_splitBlock]

/-- Decryption undoes encryption (43_des.md R218). -/
theorem desDecrypt_desEncrypt (cd0 : BitVec 56) (x : BitVec 64) : desDecrypt cd0 (desEncrypt cd0 x) = x :=
  des_des_of_reverse (d := .enc) (d' := .dec) rfl cd0 x

/-- Encryption undoes decryption (43_des.md R218). -/
theorem desEncrypt_desDecrypt (cd0 : BitVec 56) (x : BitVec 64) : desEncrypt cd0 (desDecrypt cd0 x) = x :=
  des_des_of_reverse (d := .dec) (d' := .enc) rfl cd0 x

/-- Settles O40: the two directions undo each other under every CD0, so under that of every key. -/
theorem desRoundTrip : Obligations.DesRoundTrip := fun key m =>
  ⟨desDecrypt_desEncrypt (pc1 key) m, desEncrypt_desDecrypt (pc1 key) m⟩

/-- The rounds read their order only through the round keys it lists. -/
theorem desRounds_congr {cd0 : BitVec 56} {order order' : List (BitVec 4)}
    (hk : order.map (roundKey cd0) = order'.map (roundKey cd0)) (h : Halves) :
    desRounds cd0 order h = desRounds cd0 order' h := by
  have hmap : ∀ o : List (BitVec 4),
      desRounds cd0 o h = (o.map (roundKey cd0)).foldl (fun h k => feistelRound k h) h := fun o => by
    rw [List.foldl_map, desRounds]
  rw [hmap, hmap, hk]

/-- Where all round keys are equal, encryption is decryption (43_des.md R215, corner case). -/
theorem desEncrypt_eq_desDecrypt_of_constant {cd0 : BitVec 56} (hk : ∀ r1 r2 : BitVec 4, roundKey cd0 r1 = roundKey cd0 r2)
    (x : BitVec 64) : desEncrypt cd0 x = desDecrypt cd0 x := by
  have hconst : ∀ dir, (roundOrder dir).map (roundKey cd0) = List.replicate 16 (roundKey cd0 0) := fun dir => by
    rw [List.map_congr_left fun r _ => hk r 0, List.map_const', roundOrder_length]
  exact congrArg joinHalves (desRounds_congr ((hconst .enc).trans (hconst .dec).symm) (splitBlock x))

/-- The vector of zeros is unchanged by rotation. -/
theorem rotl_zero_vector {n : Nat} (s : Nat) : rotl (0 : BitVec n) s = 0 := by
  apply bits_ext
  intro i hi
  rw [bit_rotl _ _ _ hi]
  simp [bit]

/-- Both key halves of CD0 = 0 are 0, so no rotation tells the rounds apart (41_key_schedule.md R174). -/
theorem roundKey_zero (r : BitVec 4) : roundKey 0 r = permute 48 pc2Table (0 : BitVec 56) := by
  have hC : halfC 0 = 0 := by decide
  have hD : halfD 0 = 0 := by decide
  rw [roundKey, hC, hD, rotl_zero_vector]
  rfl

/-- Settles O44: PC1 of the weak key is 0, and all round keys of CD0 = 0 are equal. -/
theorem weakKeyEncryptsAsItDecrypts : Obligations.WeakKeyEncryptsAsItDecrypts := by
  have hweak : pc1 0x0101010101010101 = 0 := by decide
  have hkeys : ∀ r1 r2 : BitVec 4, roundKey 0 r1 = roundKey 0 r2 := fun r1 r2 =>
    (roundKey_zero r1).trans (roundKey_zero r2).symm
  exact ⟨hweak, hkeys, hweak ▸ desEncrypt_eq_desDecrypt_of_constant hkeys⟩

end Sys2Proof.Machine
end

section
/-! SUPPORT. The start of a run and one engine step, case by case: the statements O14, O15, O45, O46 and O47 (43_des.md R210, R212 to R214; 44_tdea.md R241, R244). -/

namespace Sys2Proof.Machine

/-- Settles O45: the schedule is a table by CUROP. -/
theorem passScheduleIsAsListed : Obligations.PassScheduleIsAsListed := fun _ =>
  ⟨rfl, rfl, rfl, rfl, rfl, rfl, rfl, rfl⟩

/-- A number that names an instance is not 0 (30_encoding.md R103). -/
theorem inst_ne_zero_of_slot {s : State} {inst : BitVec 2} {k : KeySlot} (hk : s.slot? inst = some k) : inst ≠ 0 := by
  rintro rfl
  cases hk

/-- An instance is bound where the slot it names holds a key (00_scope.md R22). -/
theorem bound_of_slot {s : State} {inst : BitVec 2} {k : KeySlot} (hk : s.slot? inst = some k) (hv : k.kv = true) :
    s.bound inst = true := by
  simp [State.bound, hk, hv]

/-- DES_ENC and DES_DEC pass their checks on a bound instance of an idle engine (60_exceptions.md R303). -/
theorem desRunCheck_of_slot {s : State} {inst : BitVec 2} {k : KeySlot} (hb : s.busy = false) (hk : s.slot? inst = some k)
    (hv : k.kv = true) : desRunCheck inst 8 s = none :=
  desRunCheck_none.mpr ⟨hb, inst_ne_zero_of_slot hk, rfl, bound_of_slot hk hv⟩

/-- TDEA_ENC and TDEA_DEC pass theirs on an idle engine with the three instances bound (44_tdea.md R241). -/
theorem tdeaRunCheck_of_slots {s : State} (hb : s.busy = false) (h1 : s.inst1.kv = true) (h2 : s.inst2.kv = true)
    (h3 : s.inst3.kv = true) : tdeaRunCheck 8 s = none :=
  tdeaRunCheck_none.mpr ⟨hb, rfl, by simp [State.allBound, h1, h2, h3]⟩

/-- Settles O14: both commands pass their checks and have the effect `start`. -/
theorem desCommandsStartARun : Obligations.DesCommandsStartARun := fun _ inst _ hb hk hv =>
  have hcheck := desRunCheck_of_slot hb hk hv
  ⟨exec_of_accepted (i := .desEnc inst 8) hcheck, exec_of_accepted (i := .desDec inst 8) hcheck⟩

/-- Settles O15: both commands pass their checks and have the effect `start`. -/
theorem tdeaCommandsStartARun : Obligations.TdeaCommandsStartARun := fun _ hb h1 h2 h3 =>
  have hcheck := tdeaRunCheck_of_slots hb h1 h2 h3
  ⟨exec_of_accepted (i := .tdeaEnc 8) hcheck, exec_of_accepted (i := .tdeaDec 8) hcheck⟩

/-- The pass that PASS counts to, with the key of its instance (43_des.md R213). -/
theorem currentPass_of_slot {s : State} {inst : BitVec 2} {dir : Dir} {k : KeySlot} (hp : s.seq.pass ≠ 0)
    (hpass : (passes s.seq.curop s.seq.curinst)[s.seq.pass.toNat - 1]? = some (inst, dir))
    (hk : s.slot? inst = some k) : currentPass s = some (k.cd0, dir) := by
  rw [currentPass, if_neg hp, hpass]
  exact congrArg (Option.map _) hk

/-- The round index in the words of 43_des.md R213. -/
theorem roundIndex_eq_ite (dir : Dir) (rnd : BitVec 4) : roundIndex dir rnd = if dir = .enc then rnd else 15 - rnd := by
  cases dir <;> rfl

/-- RND counts to 15, so a round that is not before the 16th is the 16th. -/
theorem not_lt_fifteen_iff {rnd : BitVec 4} : ¬ rnd < 15 ↔ rnd = 15 := by revert rnd; decide

/-- Before the 16th round of a pass, the step counts its round (43_des.md R213). -/
theorem engineStep_of_lt {s : State} {cd0 : BitVec 56} {dir : Dir} (hp : currentPass s = some (cd0, dir))
    (hr : s.seq.rnd < 15) : engineStep s = .next (countRound (performRound cd0 dir s)) :=
  (engineStep_of_currentPass hp).trans (congrArg _ (if_pos hr))

/-- The 16th round of a pass before the last hands the block over (43_des.md R213, 44_tdea.md R244). -/
theorem engineStep_of_pass_lt {s : State} {cd0 : BitVec 56} {dir : Dir} (hp : currentPass s = some (cd0, dir))
    (hr : s.seq.rnd = 15) (hn : s.seq.pass.toNat < npass s.seq.curop) :
    engineStep s = .next (handOver (joinHalves ((performRound cd0 dir s).l, (performRound cd0 dir s).r))
      (performRound cd0 dir s)) := by
  rw [engineStep_of_currentPass hp, advance, performRound_seq, if_neg (not_lt_fifteen_iff.2 hr), if_pos hn]

/-- The 16th round of the last pass completes the run (43_des.md R214). -/
theorem engineStep_of_last {s : State} {cd0 : BitVec 56} {dir : Dir} (hp : currentPass s = some (cd0, dir))
    (hr : s.seq.rnd = 15) (hn : npass s.seq.curop ≤ s.seq.pass.toNat) :
    engineStep s = .next (finish (joinHalves ((performRound cd0 dir s).l, (performRound cd0 dir s).r))
      (performRound cd0 dir s)) := by
  rw [engineStep_of_currentPass hp, advance, performRound_seq, if_neg (not_lt_fifteen_iff.2 hr), if_neg (Nat.not_lt.2 hn)]

/-- Settles O46: the pass named is the current one, and the step is its round and one of the three ways to go on. -/
theorem engineStepPerformsOneRound : Obligations.EngineStepPerformsOneRound := by
  intro s inst dir k hp hpass hk
  have hcur := currentPass_of_slot hp hpass hk
  rw [← roundIndex_eq_ite]
  exact ⟨engineStep_of_lt hcur, engineStep_of_pass_lt hcur, fun hr hn => ⟨_, _, engineStep_of_last hcur hr hn⟩⟩

/-- Settles O47: the current pass and the way to go on are decided by the sequencer and the instances alone, so the step from
the changed state is of the same kind. -/
theorem engineStepReadsNoHostRegister : Obligations.EngineStepReadsNoHostRegister := by
  intro s t c e kb d k b f h last
  obtain ⟨cd0, dir, hp, hcase⟩ := engineStep_cases h
  have hp' : currentPass { s with ctrl := c, error := e, kb := kb, din := d, rksel := k, dout := b, done := f } =
    some (cd0, dir) := hp
  obtain ⟨hr, rfl⟩ | ⟨hr, hn, rfl⟩ | ⟨hr, hn, rfl⟩ := hcase
  · have hlast : ¬ last := fun hl => not_lt_fifteen_iff.2 hl.1 hr
    rw [if_neg hlast, if_neg hlast]
    exact ⟨engineStep_of_lt hp' hr, rfl, rfl, rfl, rfl, rfl, rfl, rfl, rfl, rfl, fun _ => ⟨rfl, rfl⟩⟩
  · have hlast : ¬ last := fun hl => Nat.not_lt.2 hl.2 hn
    rw [if_neg hlast, if_neg hlast]
    exact ⟨engineStep_of_pass_lt hp' (not_lt_fifteen_iff.1 hr) hn, rfl, rfl, rfl, rfl, rfl, rfl, rfl, rfl, rfl,
      fun _ => ⟨rfl, rfl⟩⟩
  · have hlast : last := ⟨not_lt_fifteen_iff.1 hr, Nat.not_lt.1 hn⟩
    rw [if_pos hlast, if_pos hlast]
    exact ⟨engineStep_of_last hp' hlast.1 hlast.2, rfl, rfl, rfl, rfl, rfl, rfl, rfl, rfl, rfl,
      fun hl => absurd hlast hl⟩

end Sys2Proof.Machine
end

section
/-! SUPPORT. A run from its start to its completion: the statements O48 and O50 (43_des.md R212, R217, R219). The lemmas serve single-DES and TDEA runs alike. -/

namespace Sys2Proof.Machine

/-! What a run will do is decided by BUSY, the sequencer, the instances, L and R -/

/-- The current pass is decided by the sequencer and the instances (43_des.md R213). -/
theorem currentPass_congr {s t : State} (hq : t.seq = s.seq) (h1 : t.inst1 = s.inst1) (h2 : t.inst2 = s.inst2)
    (h3 : t.inst3 = s.inst3) : currentPass t = currentPass s := by
  unfold currentPass
  rw [hq]
  simp only [slot?_congr h1 h2 h3]

/-- The block a run will leave is decided by these and the half-blocks (43_des.md R219). -/
theorem runResult_congr {s t : State} (hq : t.seq = s.seq) (h1 : t.inst1 = s.inst1) (h2 : t.inst2 = s.inst2)
    (h3 : t.inst3 = s.inst3) (hl : t.l = s.l) (hr : t.r = s.r) : runResult t = runResult s := by
  unfold runResult
  rw [currentPass_congr hq h1 h2 h3, keyedPasses_congr h1 h2 h3 (congrArg _ hq) (congrArg _ hq), hq, hl, hr]

/-- The number of steps a run still takes is decided by BUSY and the sequencer. -/
theorem remainingSteps_congr {s t : State} (hb : t.busy = s.busy) (hq : t.seq = s.seq) :
    remainingSteps t = remainingSteps s := by
  unfold remainingSteps
  rw [hb, hq]

/-! The start of a run -/

/-- At its start a run has all its passes before it: it will leave the block DIN taken through each of them in order
(43_des.md R210 to R212; 44_tdea.md R240). -/
theorem runResult_start {op : BitVec 4} {inst : BitVec 2} {s : State} (hs : (start op inst s).RunShape) :
    runResult (start op inst s) =
      (keyedPasses (start op inst s)).foldl (fun x p => des p.2 p.1 x) s.din.block := by
  obtain ⟨-, -, hcur, cd0, dir, hsome⟩ := hs.passes_keyed
  rw [hsome] at hcur
  have hcons : keyedPasses (start op inst s) = (cd0, dir) :: (keyedPasses (start op inst s)).drop 1 := by
    cases hk : keyedPasses (start op inst s) with
    | nil => rw [hk] at hcur; cases hcur
    | cons p rest => rw [hk] at hcur; cases hcur; rfl
  rw [hcons, List.foldl_cons, runResult, hsome]
  rfl

/-- At its start a run has 16 steps for each of its passes before it (70_reset_and_hazards.md R351). -/
theorem remainingSteps_start {op : BitVec 4} {inst : BitVec 2} {s : State} (hs : (start op inst s).RunShape) :
    remainingSteps (start op inst s) = 16 * npass op := by
  have hle : 1 ≤ npass op := hs.passes_keyed.2.1
  show 16 * (npass op - 1) + 16 = 16 * npass op
  omega

/-- The OP that starts a single-DES run in a direction (43_des.md R210). -/
def Dir.desOp : Dir → BitVec 4
  | .enc => 0x3
  | .dec => 0x4

/-- The start of a single-DES run names its one pass. -/
theorem runShape_start_des (dir : Dir) {inst : BitVec 2} (hi : inst ≠ 0) (s : State) :
    (start dir.desOp inst s).RunShape :=
  ⟨(by decide : (1 : BitVec 2) ≠ 0), .inl ⟨by cases dir <;> simp [start, Dir.desOp], rfl, hi⟩⟩

/-- The one pass of a single-DES run is its instance's, in its direction (43_des.md R210). -/
theorem keyedPasses_start_des (dir : Dir) {inst : BitVec 2} {s : State} {k : KeySlot} (hk : s.slot? inst = some k) :
    keyedPasses (start dir.desOp inst s) = [(k.cd0, dir)] := by
  have hslot : (start dir.desOp inst s).slot? inst = some k := hk
  have hpasses : passes dir.desOp inst = [(inst, dir)] := by cases dir <;> rfl
  show (passes dir.desOp inst).filterMap _ = _
  rw [hpasses]
  simp [hslot]

/-! Undisturbed runs -/

/-- Where an engine step is next, the engine is busy and the transition is that step (43_des.md R213). -/
theorem step_of_engineStepNext {s : State} (hn : s.engineStepNext = true) :
    s.busy = true ∧ step s = engineStep s.turnTaken := by
  obtain ⟨ht, hb⟩ : (nextTurn s).1 = .engine ∧ s.busy = true := by simpa [State.engineStepNext] using hn
  refine ⟨hb, ?_⟩
  show agentTurn (nextTurn s).1 (nextTurn s).2 = _
  rw [ht, nextTurn_snd]
  exact engineTurn_of_busy hb

/-- A run of some steps that answers a next state is a first step that answers one, and a run of the others from there. -/
theorem exists_step_of_core_run_succ {n : Nat} {s u : State} (hrun : core.run (n + 1) s = .next u) :
    ∃ t, step s = .next t ∧ core.run n t = .next u := by
  cases h : core.step s with
  | next t => exact ⟨t, h, by simpa only [Host.Core.run, h] using hrun⟩
  | fault r => simp only [Host.Core.run, h, reduceCtorEq] at hrun
  | refused r => simp only [Host.Core.run, h, reduceCtorEq] at hrun

/-- The first step of an undisturbed run is neither CLEAR nor reset, and the steps after it are undisturbed. -/
theorem undisturbed_succ {n : Nat} {s t : State} (h : step s = .next t) :
    undisturbed (n + 1) s = (s.undisturbedNext && undisturbed n t) := by
  simp only [undisturbed, h]

/-- The first step is counted where it is an engine step. -/
theorem engineSteps_succ {n : Nat} {s t : State} (h : step s = .next t) :
    engineSteps (n + 1) s = s.engineStepNext.toNat + engineSteps n t := by
  simp only [engineSteps, h]

/-- An undisturbed run without an engine step leaves DOUT (10_state.md R47). -/
theorem dout_of_no_engineSteps {n : Nat} {s u : State} (hrun : core.run n s = .next u) (hu : undisturbed n s = true)
    (h0 : engineSteps n s = 0) : u.dout = s.dout := by
  induction n generalizing s with
  | zero => cases hrun; rfl
  | succ n ih =>
    obtain ⟨t, hstep, hrun'⟩ := exists_step_of_core_run_succ hrun
    rw [undisturbed_succ hstep, Bool.and_eq_true] at hu
    obtain ⟨hnext, hu'⟩ := hu
    rw [engineSteps_succ hstep, Nat.add_eq_zero_iff, Bool.toNat_eq_zero] at h0
    obtain ⟨hn, h0'⟩ := h0
    rw [ih hrun' hu' h0', (step_undisturbed hstep hnext hn).1]

/-- `u` is a state of the run that `s` is in, `d` engine steps later: the run goes on, with DOUT and the keys as they were, and
will leave the same block. -/
structure State.RunsOn (s u : State) (d : Nat) : Prop where
  busy : u.busy = true
  shape : u.RunShape
  dout : u.dout = s.dout
  inst1 : u.inst1 = s.inst1
  inst2 : u.inst2 = s.inst2
  inst3 : u.inst3 = s.inst3
  result : runResult u = runResult s
  remaining : remainingSteps s = d + remainingSteps u

/-- A state in a run is in that run, no step later. -/
theorem State.RunsOn.refl {s : State} (hb : s.busy = true) (hs : s.RunShape) : s.RunsOn s 0 :=
  ⟨hb, hs, rfl, rfl, rfl, rfl, rfl, (Nat.zero_add _).symm⟩

/-- Engine steps of one run add up. -/
theorem State.RunsOn.trans {s t u : State} {d e : Nat} (h : s.RunsOn t d) (h' : t.RunsOn u e) : s.RunsOn u (d + e) :=
  ⟨h'.busy, h'.shape, h'.dout.trans h.dout, h'.inst1.trans h.inst1, h'.inst2.trans h.inst2, h'.inst3.trans h.inst3,
    h'.result.trans h.result, by rw [h.remaining, h'.remaining, Nat.add_assoc]⟩

/-- A run in progress still takes a step. -/
theorem remainingSteps_pos {s : State} (hb : s.busy = true) : 0 < remainingSteps s := by
  have hr := s.seq.rnd.isLt
  rw [remainingSteps, if_pos hb]
  omega

/-- A step of another agent than the engine, neither CLEAR nor reset, leaves a run in progress where it is (43_des.md R217). -/
theorem runsOn_of_other_step {s t : State} (hb : s.busy = true) (hs : s.RunShape) (h : step s = .next t)
    (hu : s.undisturbedNext = true) (hn : s.engineStepNext = false) : s.RunsOn t 0 := by
  obtain ⟨hdout, hkeep⟩ := step_undisturbed h hu hn
  obtain ⟨hbt, hq, h1, h2, h3, hl, hr⟩ := hkeep hb
  exact ⟨hbt, ⟨hq ▸ hs.passNonzero, hq ▸ hs.shape⟩, hdout, h1, h2, h3, runResult_congr hq h1 h2 h3 hl hr,
    by rw [Nat.zero_add, remainingSteps_congr (hbt.trans hb.symm) hq]⟩

/-- An engine step takes the run on by one, or is its last and leaves its block in DOUT (43_des.md R213, R214). -/
theorem runsOn_or_completed_of_engine_step {s t : State} (hs : s.RunShape) (h : step s = .next t)
    (hn : s.engineStepNext = true) :
    s.RunsOn t 1 ∨
      (remainingSteps s = 1 ∧ t.busy = false ∧ t.done = true ∧ t.dout.hi ++ t.dout.lo = runResult s) := by
  obtain ⟨hb, hstep⟩ := step_of_engineStepNext hn
  have ht : engineStep s.turnTaken = .next t := hstep.symm.trans h
  obtain ⟨hrem, hon, hend⟩ := engineStep_progress (s := s.turnTaken) ⟨hs.passNonzero, hs.shape⟩ hb ht
  obtain ⟨-, -, ⟨h1, h2, h3⟩, -⟩ := engineStep_frame ht
  cases hbt : t.busy with
  | true =>
    obtain ⟨hshape, hresult, hdout⟩ := hon hbt
    exact .inl ⟨hbt, hshape, hdout, h1, h2, h3, hresult, hrem.trans (Nat.add_comm _ _)⟩
  | false =>
    obtain ⟨hdone, hdout, hlast⟩ := hend hbt
    exact .inr ⟨hlast, rfl, hdone, hdout⟩

/-- Over an undisturbed run of the machine, the run of the engine goes on until its last engine step is done, which leaves its
block in DOUT; no host transaction changes the block or the number of engine steps (43_des.md R217, 44_tdea.md R245). -/
theorem undisturbed_run_progress {n : Nat} {s u : State} (hb : s.busy = true) (hs : s.RunShape)
    (hrun : core.run n s = .next u) (hu : undisturbed n s = true) :
    (engineSteps n s < remainingSteps s → s.RunsOn u (engineSteps n s)) ∧
      (engineSteps n s = remainingSteps s → u.dout.hi ++ u.dout.lo = runResult s) := by
  induction n generalizing s with
  | zero =>
    cases hrun
    have hpos := remainingSteps_pos hb
    exact ⟨fun _ => .refl hb hs, fun h => absurd h (Nat.ne_of_lt hpos)⟩
  | succ n ih =>
    obtain ⟨t, hstep, hrun'⟩ := exists_step_of_core_run_succ hrun
    rw [undisturbed_succ hstep, Bool.and_eq_true] at hu
    obtain ⟨hnext, hu'⟩ := hu
    rw [engineSteps_succ hstep]
    have hgo : ∀ d, s.RunsOn t d →
        (d + engineSteps n t < remainingSteps s → s.RunsOn u (d + engineSteps n t)) ∧
          (d + engineSteps n t = remainingSteps s → u.dout.hi ++ u.dout.lo = runResult s) := fun d hd => by
      obtain ⟨hlt, heq⟩ := ih hd.busy hd.shape hrun' hu'
      rw [hd.remaining, ← hd.result]
      exact ⟨fun h => hd.trans (hlt (by omega)), fun h => heq (by omega)⟩
    cases hn : s.engineStepNext with
    | false => exact hgo 0 (runsOn_of_other_step hb hs hstep hnext hn)
    | true =>
      obtain hd | ⟨hlast, -, -, hdout⟩ := runsOn_or_completed_of_engine_step hs hstep hn
      · exact hgo 1 hd
      · rw [Bool.toNat_true, hlast]
        refine ⟨fun h => by omega, fun h => ?_⟩
        rw [dout_of_no_engineSteps hrun' hu' (by omega), hdout]

/-- The engine step after which none remains completes the run (43_des.md R214, R217). -/
theorem undisturbed_run_completes {n : Nat} {s u v : State} (hb : s.busy = true) (hs : s.RunShape)
    (hrun : core.run n s = .next u) (hu : undisturbed n s = true) (hlast : engineSteps n s + 1 = remainingSteps s)
    (hn : u.engineStepNext = true) (hv : step u = .next v) :
    v.busy = false ∧ v.done = true ∧ v.dout.hi ++ v.dout.lo = runResult s := by
  have hon := (undisturbed_run_progress hb hs hrun hu).1 (by omega)
  have hrem := hon.remaining
  obtain hd | ⟨-, hbv, hdone, hdout⟩ := runsOn_or_completed_of_engine_step hon.shape hv hn
  · have hpos := remainingSteps_pos hd.busy
    have hrem' := hd.remaining
    omega
  · exact ⟨hbv, hdone, hdout.trans hon.result⟩

/-- Settles O48: the command starts a run of one pass, whose result is the DES function and which takes 16 steps. -/
theorem desRunComputesTheDesFunction : Obligations.DesRunComputesTheDesFunction := by
  intro s t inst k dir hb hk hv ht n u hrun hu result
  obtain rfl : start dir.desOp inst s = t := by
    obtain ⟨henc, hdec⟩ := desCommandsStartARun s inst k hb hk hv
    cases dir with
    | enc => exact Host.Outcome.next.inj (henc.symm.trans ht)
    | dec => exact Host.Outcome.next.inj (hdec.symm.trans ht)
  have hs : (start dir.desOp inst s).RunShape := runShape_start_des dir (inst_ne_zero_of_slot hk) s
  have hresult : runResult (start dir.desOp inst s) = result := by
    rw [runResult_start hs, keyedPasses_start_des dir hk]
    cases dir <;> rfl
  have hrem : remainingSteps (start dir.desOp inst s) = 16 := by
    rw [remainingSteps_start hs]
    cases dir <;> rfl
  obtain ⟨hgoing, hdone⟩ := undisturbed_run_progress rfl hs hrun hu
  rw [hrem, hresult] at hdone
  refine ⟨fun h => ?_, hdone, fun v h hn hv => ?_⟩
  · have hon := hgoing (hrem ▸ h)
    exact ⟨hon.busy, hon.dout, (slot?_congr hon.inst1 hon.inst2 hon.inst3 inst).trans hk⟩
  · exact hresult ▸ undisturbed_run_completes rfl hs hrun hu (by omega) hn hv

/-! What ran before -/

/-- A command's checks are decided by BUSY and the instances (60_exceptions.md R303). -/
theorem commandCheck_congr (i : Instr) {s t : State} (hb : t.busy = s.busy) (h1 : t.inst1 = s.inst1)
    (h2 : t.inst2 = s.inst2) (h3 : t.inst3 = s.inst3) : commandCheck i t = commandCheck i s := by
  cases i <;>
    simp only [commandCheck, nopCheck, desSetkeyCheck, tdeaSetkeyCheck, desRunCheck, tdeaRunCheck, State.bound,
      State.allBound, slot?_congr h1 h2 h3, hb, h1, h2, h3]

/-- A start writes all that decides the run but the instances, from DIN (43_des.md R212, R219). -/
theorem run_start_congr (op : BitVec 4) (inst : BitVec 2) {s t : State} (hd : t.din = s.din) (h1 : t.inst1 = s.inst1)
    (h2 : t.inst2 = s.inst2) (h3 : t.inst3 = s.inst3) :
    runResult (start op inst t) = runResult (start op inst s) ∧
      remainingSteps (start op inst t) = remainingSteps (start op inst s) := by
  refine ⟨runResult_congr rfl h1 h2 h3 ?_ ?_, remainingSteps_congr rfl rfl⟩ <;> simp only [start, hd]

/-- Settles O50: both commands are rejected or both accepted, and a run that starts is decided by DIN and the instances. -/
theorem resultIgnoresWhatRanBefore : Obligations.ResultIgnoresWhatRanBefore := by
  intro i s1 s2 t1 t2 hb1 hb2 hd h1 h2 h3 ht1 ht2
  have hcheck : commandCheck i s1 = commandCheck i s2 := commandCheck_congr i (hb1.trans hb2.symm) h1 h2 h3
  rw [exec_eq] at ht1 ht2
  rw [hcheck] at ht1
  cases hk : commandCheck i s2 with
  | some code =>
    rw [hk, accept_some, raise_eq] at ht1 ht2
    cases ht1
    cases ht2
    exact ⟨hb1.trans hb2.symm, fun h => by cases hb1.symm.trans h⟩
  | none =>
    rw [hk, accept_none] at ht1 ht2
    cases ht1
    cases ht2
    cases i with
    | nop | desSetkey | tdeaSetkey => exact ⟨hb1.trans hb2.symm, fun h => by cases hb1.symm.trans h⟩
    | clear => exact ⟨rfl, fun h => by cases h⟩
    | desEnc | desDec | tdeaEnc | tdeaDec => exact ⟨rfl, fun _ => run_start_congr _ _ hd h1 h2 h3⟩

end Sys2Proof.Machine
end

section
/-! SUPPORT. TDEA as three DES passes, on blocks, at a key binding and over a run: the statements O41, O42, O43 and O49 (44_tdea.md R240 to R248). -/

namespace Sys2Proof.Machine

/-! The functions of 44_tdea.md R240 -/

/-- Decryption takes the three passes back, the last one first (44_tdea.md R248). -/
theorem tdeaDecrypt_tdeaEncrypt (cd1 cd2 cd3 : BitVec 56) (m : BitVec 64) :
    tdeaDecrypt cd1 cd2 cd3 (tdeaEncrypt cd1 cd2 cd3 m) = m := by
  unfold tdeaDecrypt tdeaEncrypt
  rw [desDecrypt_desEncrypt cd3, desEncrypt_desDecrypt cd2, desDecrypt_desEncrypt cd1]

/-- Encryption takes the three passes of decryption back (44_tdea.md R248). -/
theorem tdeaEncrypt_tdeaDecrypt (cd1 cd2 cd3 : BitVec 56) (c : BitVec 64) :
    tdeaEncrypt cd1 cd2 cd3 (tdeaDecrypt cd1 cd2 cd3 c) = c := by
  unfold tdeaDecrypt tdeaEncrypt
  rw [desEncrypt_desDecrypt cd1, desDecrypt_desEncrypt cd2, desEncrypt_desDecrypt cd3]

/-- Settles O41: each pass is undone by the same instance's pass in the other direction. -/
theorem tdeaRoundTrip : Obligations.TdeaRoundTrip := fun _ m =>
  ⟨tdeaDecrypt_tdeaEncrypt _ _ _ m, tdeaEncrypt_tdeaDecrypt _ _ _ m⟩

/-- Under one key the second pass undoes the first (44_tdea.md R246). -/
theorem tdeaEncrypt_single_key (cd0 : BitVec 56) (m : BitVec 64) : tdeaEncrypt cd0 cd0 cd0 m = desEncrypt cd0 m :=
  congrArg (desEncrypt cd0) (desDecrypt_desEncrypt cd0 m)

/-- Under one key the second pass of decryption undoes its first (44_tdea.md R246). -/
theorem tdeaDecrypt_single_key (cd0 : BitVec 56) (c : BitVec 64) : tdeaDecrypt cd0 cd0 cd0 c = desDecrypt cd0 c :=
  congrArg (desDecrypt cd0) (desEncrypt_desDecrypt cd0 c)

/-- Settles O42: the two equalities make the binding one of a single key. -/
theorem singleKeyTdeaIsDes : Obligations.SingleKeyTdeaIsDes := by
  intro s h12 h23 m
  rw [← h23, ← h12]
  exact ⟨tdeaEncrypt_single_key _ m, tdeaDecrypt_single_key _ m⟩

/-! Two-key material -/

/-- Settles O43: LEN 16 binds segments 0, 1, 0 and LEN 24 segments 0, 1, 2, which hold the same keys (41_key_schedule.md
R178). -/
theorem twoKeyBindingIsK1K2K1 : Obligations.TwoKeyBindingIsK1K2K1 := by
  intro s t hs ht h0 h1 h2 h3 h4 h5
  have hk1 : t.kb.seg0 = s.kb.seg0 := congrArg₂ (· ++ ·) h0 h1
  have hk2 : t.kb.tdeaKey2 24 = s.kb.tdeaKey2 16 := congrArg₂ (· ++ ·) h2 h3
  have hk3 : t.kb.tdeaKey3 24 = s.kb.tdeaKey3 16 := congrArg₂ (· ++ ·) h4 h5
  refine ⟨_, _, exec_tdeaSetkey hs (.inr (.inl rfl)), exec_tdeaSetkey ht (.inr (.inr rfl)), ?_⟩
  simp only [completeAtOnce_inst1, completeAtOnce_inst2, completeAtOnce_inst3, bindAll_inst1, bindAll_inst2,
    bindAll_inst3, hk1, hk2, hk3, implies_true, and_self]

/-! Runs -/

/-- The OP that starts a TDEA run in a direction (43_des.md R210). -/
def Dir.tdeaOp : Dir → BitVec 4
  | .enc => 0x5
  | .dec => 0x6

/-- The start of a TDEA run names its first pass. -/
theorem runShape_start_tdea (dir : Dir) (s : State) : (start dir.tdeaOp 0 s).RunShape :=
  ⟨(by decide : (1 : BitVec 2) ≠ 0), .inr ⟨by cases dir <;> simp [start, Dir.tdeaOp], rfl⟩⟩

/-- Encryption passes through instances 1, 2 and 3 (43_des.md R210, 44_tdea.md R240). -/
theorem keyedPasses_start_tdea_enc (s : State) :
    keyedPasses (start Dir.enc.tdeaOp 0 s) = [(s.inst1.cd0, .enc), (s.inst2.cd0, .dec), (s.inst3.cd0, .enc)] := rfl

/-- Decryption passes through instances 3, 2 and 1 (43_des.md R210, 44_tdea.md R240). -/
theorem keyedPasses_start_tdea_dec (s : State) :
    keyedPasses (start Dir.dec.tdeaOp 0 s) = [(s.inst3.cd0, .dec), (s.inst2.cd0, .enc), (s.inst1.cd0, .dec)] := rfl

/-- Settles O49: the command starts a run of three passes, whose result is the TDEA function and which takes 48 steps. -/
theorem tdeaRunComputesTheTdeaFunction : Obligations.TdeaRunComputesTheTdeaFunction := by
  intro s t dir hb h1 h2 h3 ht n u hrun hu result
  obtain rfl : start dir.tdeaOp 0 s = t := by
    obtain ⟨henc, hdec⟩ := tdeaCommandsStartARun s hb h1 h2 h3
    cases dir with
    | enc => exact Host.Outcome.next.inj (henc.symm.trans ht)
    | dec => exact Host.Outcome.next.inj (hdec.symm.trans ht)
  have hs : (start dir.tdeaOp 0 s).RunShape := runShape_start_tdea dir s
  have hresult : runResult (start dir.tdeaOp 0 s) = result := by
    rw [runResult_start hs]
    cases dir with
    | enc => rw [keyedPasses_start_tdea_enc]; rfl
    | dec => rw [keyedPasses_start_tdea_dec]; rfl
  have hrem : remainingSteps (start dir.tdeaOp 0 s) = 48 := by
    rw [remainingSteps_start hs]
    cases dir <;> rfl
  obtain ⟨hgoing, hdone⟩ := undisturbed_run_progress rfl hs hrun hu
  rw [hrem, hresult] at hdone
  refine ⟨fun h => ?_, hdone, fun v h hn hv => ?_⟩
  · have hon := hgoing (hrem ▸ h)
    exact ⟨hon.busy, hon.dout, hon.inst1, hon.inst2, hon.inst3⟩
  · exact hresult ▸ undisturbed_run_completes rfl hs hrun hu (by omega) hn hv

end Sys2Proof.Machine
end

section
/-! SUPPORT. The two control commands: the statements O11 and O16 (45_control.md R260 to R262). -/

namespace Sys2Proof.Machine

/-- NOP, on an idle engine, passes its only check and completes at once (45_control.md R260). -/
theorem exec_nop {s : State} (hb : s.busy = false) : exec .nop s = .next (completeAtOnce 0x0 s) :=
  exec_of_accepted (i := .nop) (nopCheck_none.mpr hb)

/-- CLEAR has no check, so in every state it erases and completes at once (45_control.md R261, R262). -/
theorem exec_clear (s : State) : exec .clear s = .next (completeAtOnce 0x7 (eraseAll s)) :=
  exec_of_accepted (i := .clear) rfl

/-- Settles O11: the command is accepted, and `completeAtOnce` writes DONE and CUROP only. -/
theorem nopCompletesAtOnce : Obligations.NopCompletesAtOnce := fun _ hb => exec_nop hb

/-- Settles O16: the command is accepted, busy or idle; `eraseAll` writes the fields listed but DONE and CUROP, and
`completeAtOnce` those two. -/
theorem clearErasesKeysAndResult : Obligations.ClearErasesKeysAndResult := fun s => exec_clear s

end Sys2Proof.Machine
end

section
/-! SUPPORT. Which check rejects a command, and what a command can raise: the statements O7 and O17 to O21 (60_exceptions.md R301 to R303, R312). -/

namespace Sys2Proof.Machine

/-- A command that fails a check raises the code of the first that fails, and nothing else happens (60_exceptions.md R303). -/
theorem exec_of_rejected {i : Instr} {s : State} {code : ErrCode} (hk : commandCheck i s = some code) :
    exec i s = .next (raise code (encode i) s) := by
  rw [exec_eq, hk, accept_some]

/-- Settles O7: the host's turn submits the word, which is rejected because it does not decode. -/
theorem stepRejectsAnUndecodedWord : Obligations.StepRejectsAnUndecodedWord := by
  intro s w code rest turns hh hs hd
  calc step s = hostTurn { s with sched := turns } := step_of_sched_cons hs
    _ = submitCommand w { s with host := rest, sched := turns } := hostTurn_of_submission hh
    _ = .next (raise .badCmd w { s with host := rest, sched := turns }) := submitCommand_of_decode_bad _ hd

/-- Settles O17: the BUSY check comes first in every command but CLEAR. -/
theorem busyRejectsEveryCommandButClear : Obligations.BusyRejectsEveryCommandButClear := fun i s hb hc =>
  ⟨exec_of_rejected (commandCheck_busy i s hb hc), raise_eq _ _ s⟩

/-! The checks of an idle engine, in their order (60_exceptions.md R303) -/

section
variable {s : State} (hb : s.busy = false)
include hb

theorem desSetkeyCheck_idle (inst : BitVec 2) (len : BitVec 5) : desSetkeyCheck inst len s =
    if inst = 0 then some .badInst else if len ≠ 8 then some .keyLen else none := by
  simp [desSetkeyCheck, firstFailing, hb]

theorem tdeaSetkeyCheck_idle (len : BitVec 5) : tdeaSetkeyCheck len s =
    if len ≠ 8 ∧ len ≠ 16 ∧ len ≠ 24 then some .keyLen else none := by
  simp [tdeaSetkeyCheck, firstFailing, hb, and_assoc]

theorem desRunCheck_idle (inst : BitVec 2) (len : BitVec 5) : desRunCheck inst len s =
    if inst = 0 then some .badInst else if len ≠ 8 then some .blockLen
      else if s.bound inst = false then some .noKey else none := by
  simp [desRunCheck, firstFailing, hb]

theorem tdeaRunCheck_idle (len : BitVec 5) : tdeaRunCheck len s =
    if len ≠ 8 then some .blockLen else if s.allBound = false then some .noKey else none := by
  simp [tdeaRunCheck, firstFailing, hb]

end

/-- Settles O18: on an idle engine BADINST is the first check that looks at the operands. -/
theorem instanceZeroIsRejected : Obligations.InstanceZeroIsRejected := by
  intro s len hb
  have hrun : desRunCheck 0 len s = some .badInst := by rw [desRunCheck_idle hb, if_pos rfl]
  refine ⟨exec_of_rejected ?_, exec_of_rejected hrun, exec_of_rejected hrun⟩
  exact (desSetkeyCheck_idle hb 0 len).trans (if_pos rfl)

/-- Settles O19: on an idle engine the length is checked next after INST, before KV. -/
theorem wrongLengthIsRejected : Obligations.WrongLengthIsRejected := by
  intro s inst len hb hl
  have htdea : tdeaRunCheck len s = some .blockLen := by rw [tdeaRunCheck_idle hb, if_pos hl]
  refine ⟨fun hi => ?_, fun h16 h24 => exec_of_rejected ?_, exec_of_rejected htdea, exec_of_rejected htdea⟩
  · have hset : desSetkeyCheck inst len s = some .keyLen := by rw [desSetkeyCheck_idle hb, if_neg hi, if_pos hl]
    have hrun : desRunCheck inst len s = some .blockLen := by rw [desRunCheck_idle hb, if_neg hi, if_pos hl]
    exact ⟨exec_of_rejected hset, exec_of_rejected hrun, exec_of_rejected hrun⟩
  · exact (tdeaSetkeyCheck_idle hb len).trans (if_pos ⟨hl, h16, h24⟩)

/-- A number that names an instance is bound as KV of that instance says (00_scope.md R22). -/
theorem bound_eq_kv {s : State} {inst : BitVec 2} {k : KeySlot} (hk : s.slot? inst = some k) : s.bound inst = k.kv := by
  rw [State.bound, hk, Option.map_some, Option.getD_some]

/-- Not every instance is bound exactly where one of the three is not (44_tdea.md R241). -/
theorem allBound_eq_false {s : State} :
    s.allBound = false ↔ s.inst1.kv = false ∨ s.inst2.kv = false ∨ s.inst3.kv = false := by
  simp only [State.allBound, Bool.and_eq_false_iff, or_assoc]

/-- Settles O20: with INST and LEN in order, the KV check is the last one. -/
theorem unboundInstanceIsRejected : Obligations.UnboundInstanceIsRejected := by
  refine fun s hb => ⟨fun inst k hk hv => ?_, fun h => ?_⟩
  · have hrun : desRunCheck inst 8 s = some .noKey := by
      rw [desRunCheck_idle hb, if_neg (inst_ne_zero_of_slot hk), if_neg (not_not_intro rfl),
        if_pos ((bound_eq_kv hk).trans hv)]
    exact ⟨exec_of_rejected hrun, exec_of_rejected hrun⟩
  · have hrun : tdeaRunCheck 8 s = some .noKey := by
      rw [tdeaRunCheck_idle hb, if_neg (not_not_intro rfl), if_pos (allBound_eq_false.2 h)]
    exact ⟨exec_of_rejected hrun, exec_of_rejected hrun⟩

/-- The code reported is that of one of the checks (60_exceptions.md R303). -/
theorem mem_of_firstFailing {l : List (Bool × ErrCode)} {code : ErrCode} (h : firstFailing l = some code) :
    code ∈ l.map Prod.snd := by
  induction l with
  | nil => cases h
  | cons p l ih =>
    obtain ⟨failed, c⟩ := p
    cases failed with
    | true => cases h; exact List.mem_cons_self
    | false => exact List.mem_cons_of_mem _ (ih h)

/-- The codes of a command's checks are those listed for the command (60_exceptions.md R303, R312). -/
theorem mem_commandErrors {i : Instr} {s : State} {code : ErrCode} (h : commandCheck i s = some code) :
    code ∈ commandErrors i := by
  cases i with
  | clear => cases h
  | _ => exact mem_of_firstFailing h

/-- Settles O21: a command is rejected by one of its checks, or has its effect. -/
theorem commandsRaiseOnlyTheirOwnErrors : Obligations.CommandsRaiseOnlyTheirOwnErrors := by
  intro i s
  obtain ⟨code, hk, he⟩ | ⟨-, he⟩ := exec_next i s
  · exact .inl ⟨code, mem_commandErrors hk, he⟩
  · exact .inr ⟨_, he, commandEffect_error i s, commandEffect_curop i s⟩

end Sys2Proof.Machine
end

section
/-! SUPPORT. The error record, its acknowledgement, and what raises an error: the statements O22 to O25 (60_exceptions.md R304 to R308, R311). -/

namespace Sys2Proof.Machine

/-- Settles O22: the two cases of `raise`, and the code numbers. -/
theorem raiseRecordsTheFirstError : Obligations.RaiseRecordsTheFirstError := fun code info s =>
  ⟨raise_first code info s, raise_later code info s, rfl, rfl, rfl, rfl, rfl, rfl, rfl⟩

/-- A write to STATUS is legal and clears flags only (60_exceptions.md R308). -/
theorem memWrite_status (w : Word) (s : State) : memWrite 0x0C (.word w) s = .next (statusW1c w s) :=
  memWrite_offset .status w s (by decide)

/-- Clearing a flag by a bit is choosing between 0 and the flag. -/
theorem and_not_eq_ite (flag clears : Bool) : (flag && !clears) = if clears then false else flag := by
  cases clears with
  | true => exact Bool.and_false flag
  | false => exact Bool.and_true flag

/-- Settles O23: the write is `statusW1c`, which with bit 2 leaves ERR = 0; so the ERR term of irq is 0 and the next error is
the first. -/
theorem statusWriteClearsTheNamedFlags : Obligations.StatusWriteClearsTheNamedFlags := by
  intro w s
  refine ⟨?_, fun hw => ?_, fun code info hw => ?_⟩
  · rw [memWrite_status, statusW1c]
    simp only [and_not_eq_ite]
  · rw [irq, statusW1c_error_of_bit s hw, Bool.and_false, Bool.or_false, statusW1c_ctrl]
  · have herr : (statusW1c w s).error.err = false := by rw [statusW1c_error_of_bit s hw]
    rw [raise_first _ _ _ herr]

/-! Illegal accesses -/

/-- Two registers do not share an offset (10_state.md R32). -/
theorem offset_injective : Function.Injective Reg.offset := fun q r h =>
  Option.some.inj <| by rw [← regAt_offset q, h, regAt_offset]

/-- A read is illegal unless it is of a word at a multiple of 4 that holds a register (20_memory.md R72). -/
theorem legalRead_eq_none {off : Offset} {size : AccessSize}
    (h : size ≠ .word ∨ off.toNat % 4 ≠ 0 ∨ ∀ r : Reg, r.offset ≠ off) : legalRead off size = none := by
  cases hl : legalRead off size with
  | none => rfl
  | some r =>
    obtain ⟨hsize, halign, hreg⟩ := size_of_legalRead hl
    obtain h | h | h := h
    · exact absurd hsize h
    · exact absurd (beq_iff_eq.1 halign) h
    · exact absurd (offset_of_regAt hreg) (h r)

/-- A write is illegal where a read is (20_memory.md R72). -/
theorem legalWrite_of_legalRead_none {off : Offset} {size : AccessSize} (h : legalRead off size = none) :
    legalWrite off size = none := by
  rw [legalWrite, h, Option.filter_none]

/-- A write of a read-only register is illegal, whatever its size (20_memory.md R72). -/
theorem legalWrite_of_ro {r : Reg} (size : AccessSize) (hr : r.access = .ro) : legalWrite r.offset size = none := by
  cases hl : legalRead r.offset size with
  | none => exact legalWrite_of_legalRead_none hl
  | some q =>
    obtain rfl : q = r := offset_injective (offset_of_regAt (size_of_legalRead hl).2.2)
    rw [legalWrite, hl, Option.filter_some, if_neg (by simp [hr])]

/-- The information word as a number: size - 1, direction and offset stand in separate fields (60_exceptions.md R311). -/
theorem toNat_accessInfo (off : Offset) (size : AccessSize) (write : Bool) :
    (accessInfo off size write).toNat =
      ((size.bytes - 1) % 16) * 4096 + (if write then 256 else 0) + off.toNat := by
  have hoff := off.isLt
  have hsize : (size.bytes - 1) % 16 < 16 := Nat.mod_lt _ (by decide)
  have hdir : write.toNat <<< 8 = if write then 256 else 0 := by cases write <;> rfl
  have hdir_le : (if write then 256 else 0) ≤ 256 := by split <;> decide
  rw [accessInfo, BitVec.toNat_ofNat, hdir, Nat.shiftLeft_eq, Nat.mod_eq_of_lt (by omega)]

/-- Settles O24: an access in one of the listed cases is not legal, so it raises BADACCESS. -/
theorem illegalAccessesAreRecorded : Obligations.IllegalAccessesAreRecorded := by
  refine ⟨fun off size s h => memRead_illegal (legalRead_eq_none h), fun off data s h => memWrite_illegal ?_,
    toNat_accessInfo, fun r s _ => ?_, memWrite_status⟩
  · obtain h | h | h | rfl | rfl | rfl | rfl | rfl | rfl := h
    · exact legalWrite_of_legalRead_none (legalRead_eq_none (.inl h))
    · exact legalWrite_of_legalRead_none (legalRead_eq_none (.inr (.inl h)))
    · exact legalWrite_of_legalRead_none (legalRead_eq_none (.inr (.inr h)))
    · exact legalWrite_of_ro (r := .id) _ rfl
    · exact legalWrite_of_ro (r := .errInfo) _ rfl
    · exact legalWrite_of_ro (r := .doutHi) _ rfl
    · exact legalWrite_of_ro (r := .doutLo) _ rfl
    · exact legalWrite_of_ro (r := .rkHi) _ rfl
    · exact legalWrite_of_ro (r := .rkLo) _ rfl
  · rw [memRead_offset]

/-- A submitted word is rejected, with the word as information, or is that of an accepted command (60_exceptions.md R303). -/
theorem submitCommand_rejected_or_accepted (w : Word) (s : State) :
    (∃ code, submitCommand w s = .next (raise code w s)) ∨
      ∃ i, decode w = .ok i ∧ submitCommand w s = .next (commandEffect i s) := by
  cases hd : decode w with
  | bad code => exact .inl ⟨.badCmd, submitCommand_of_decode_bad s hd⟩
  | ok i =>
    rw [submitCommand_of_decode_ok s hd]
    obtain ⟨code, -, he⟩ | ⟨-, he⟩ := exec_next i s
    · rw [encodeOfDecodedIsTheWord w i hd] at he
      exact .inl ⟨code, he⟩
    · exact .inr ⟨i, rfl, he⟩

/-- Settles O25: every rejection and every illegal access is a `raise`, which writes the error record only. -/
theorem rejectionsHaveNoPartialEffect : Obligations.RejectionsHaveNoPartialEffect := by
  refine ⟨fun code info s => ⟨_, raise_eq code info s⟩, fun w s => ?_, fun off size s hl => ?_, fun off data s hl => ?_⟩
  · refine (submitCommand_rejected_or_accepted w s).imp_right ?_
    rintro ⟨i, hd, he⟩
    exact ⟨i, _, hd, he, commandEffect_error i s, commandEffect_curop i s⟩
  · exact ⟨_, _, (memRead_illegal hl).trans (by rw [raiseBadAccess, raise_eq])⟩
  · exact ⟨_, (memWrite_illegal hl).trans (congrArg _ (raise_eq _ _ s))⟩

end Sys2Proof.Machine
end

section
/-! SUPPORT. A step from a state that meets the invariants answers a next state: the statement O55 (10_state.md R53; 60_exceptions.md R307). -/

namespace Sys2Proof.Machine

/-- A register write always answers a next state: only a write to CMD does more than set fields (20_memory.md R74). -/
theorem writeReg_next (r : Reg) (w : Word) (s : State) : ∃ t, writeReg r w s = .next t := by
  cases r with
  | cmd =>
    obtain ⟨code, h⟩ | ⟨i, -, h⟩ := submitCommand_rejected_or_accepted w s
    · exact ⟨_, h⟩
    · exact ⟨_, h⟩
  | _ => exact ⟨_, rfl⟩

/-- A host turn always answers a next state (20_memory.md R73 to R75). -/
theorem hostTurn_next (s : State) : ∃ t, hostTurn s = .next t := by
  obtain ⟨-, he⟩ | ⟨off, size, rest, -, he⟩ | ⟨off, data, rest, -, he⟩ | ⟨off, mask, val, rest, -, he⟩ := hostTurn_cases s
  · exact ⟨_, he⟩
  · exact ⟨_, he⟩
  · rw [he]
    obtain hw | ⟨r, w, -, -, hw⟩ := memWrite_cases off data { s with host := rest }
    · exact ⟨_, hw⟩
    · rw [hw]
      exact writeReg_next r w _
  · exact ⟨_, he⟩

/-- Where the sequencer names a pass of a command that runs, the engine step answers a next state (43_des.md R213). -/
theorem State.RunShape.engineStep_next {s : State} (h : s.RunShape) : ∃ t, engineStep s = .next t := by
  obtain ⟨-, -, -, cd0, dir, hp⟩ := h.passes_keyed
  exact ⟨_, engineStep_of_currentPass hp⟩

/-- Settles O55: only an engine step can stop, and a busy state that meets the invariants names a pass. -/
theorem invariantStatesNeverStop : Obligations.InvariantStatesNeverStop := by
  intro s hi
  obtain ⟨-, hs⟩ | ⟨-, hb, hs⟩ | ⟨-, -, hs⟩ | ⟨-, hs⟩ := step_cases s
  · exact ⟨_, hs⟩
  · have hinv : s.turnTaken.Inv := hi.congr rfl rfl rfl rfl rfl hi.noError
    rw [hs]
    exact (hinv.runShape hb).engineStep_next
  · exact ⟨_, hs⟩
  · rw [hs]
    exact hostTurn_next _

end Sys2Proof.Machine
end

section
/-! SUPPORT. Reset, and a wait of the host: the statements O10 and O51 (70_reset_and_hazards.md R340, R341, R350; 30_encoding.md R110). -/

namespace Sys2Proof.Machine

/-! Reset -/

/-- After reset the registers show what they show in `State.reset`: none shows the model's own four fields (logs 1 to 4). -/
theorem value_applyReset (r : Reg) (s : State) : r.value (applyReset s) = r.value State.reset := by cases r <;> rfl

/-- In `State.reset` every register but ID reads 0 (70_reset_and_hazards.md R340). -/
theorem value_reset {r : Reg} (hr : r ≠ .id) : r.value State.reset = 0 := by
  revert hr
  cases r <;> decide

/-- Settles O10: the step is `applyReset`, which leaves the fields of `State.reset`. -/
theorem resetSetsEveryPieceOfState : Obligations.ResetSetsEveryPieceOfState := by
  intro s turns hs
  refine ⟨applyReset { s with sched := turns }, step_of_sched_cons hs, ?_⟩
  and_intros
  on_goal -1 => exact fun r hr => (value_applyReset r _).trans (value_reset hr)
  all_goals rfl

/-! The steps a run can still take -/

/-- A command has at most three passes (43_des.md R210). -/
theorem npass_le_three (op : BitVec 4) : npass op ≤ 3 := by revert op; decide

/-- A run takes at most 48 engine steps: 16 for each of three passes (70_reset_and_hazards.md R351). -/
theorem State.Inv.remainingSteps_le {s : State} (hi : s.Inv) : remainingSteps s ≤ 48 := by
  unfold remainingSteps
  split
  next hb =>
    have hnpass := npass_le_three s.seq.curop
    have hpass : s.seq.pass.toNat ≠ 0 := fun h => (hi.runShape hb).passNonzero (BitVec.eq_of_toNat_eq h)
    omega
  next => omega

/-! A wait of the host -/

/-- An engine step leaves the host's program and the schedule (43_des.md R213, R214). -/
theorem engineStep_environment {s t : State} (h : engineStep s = .next t) : t.host = s.host ∧ t.sched = s.sched := by
  obtain ⟨cd0, dir, _, ⟨_, rfl⟩ | ⟨_, _, rfl⟩ | ⟨_, _, rfl⟩⟩ := engineStep_cases h
  all_goals exact ⟨rfl, rfl⟩

/-- A STATUS poll compares BUSY, and nothing else, when its mask is that of bit 0 (10_state.md R36). -/
theorem polledWord_status_and_one (s : State) :
    polledWord 0x0C s &&& 0x00000001 = (BitVec.ofBool s.busy).setWidth 32 := by
  obtain ⟨w, hread, hbusy, -⟩ := statusFieldsAreAsListed s
  rw [polledWord_of_readData hread, ← hbusy]
  exact BitVec.and_one_eq_setWidth_ofBool_getLsbD

/-- On an idle engine a wait is performed by its first read of STATUS (30_encoding.md R110). -/
theorem hostTurn_of_wait_idle {s : State} {rest : List HostStmt} (hb : s.busy = false) (hh : s.host = wait :: rest) :
    hostTurn s = .next { s with host := rest, reads := .word (statusWord s) :: s.reads } := by
  have hmatch : polledWord 0x0C s &&& 0x00000001 = 0x00000000 := by
    rw [polledWord_status_and_one, hb]
    rfl
  rw [hostTurn_of_poll (off := 0x0C) hh, if_pos hmatch]
  exact congrArg _ (memRead_legal (legalRead_offset .status))

/-- With no turn fixed, a wait is performed in the step after the last engine step of the run in progress
(70_reset_and_hazards.md R350; log 2). -/
theorem wait_performed_after_run {n : Nat} {s : State} {rest : List HostStmt} (hi : s.Inv) (hs : s.sched = [])
    (hh : s.host = wait :: rest) (hn : remainingSteps s = n) :
    ∃ t, core.run (n + 1) s = .next t ∧ t.host = rest ∧ t.busy = false := by
  induction n generalizing s with
  | zero =>
    have hb : s.busy = false := Bool.eq_false_iff.mpr fun h => (remainingSteps_pos h).ne' hn
    have hstep := (step_of_sched_nil_idle hs hb).trans (hostTurn_of_wait_idle hb hh)
    exact ⟨_, core_run_succ 0 hstep, rfl, hb⟩
  | succ n ih =>
    have hb : s.busy = true := by
      by_contra h
      rw [remainingSteps, if_neg h] at hn
      omega
    obtain ⟨t, hstep⟩ := invariantStatesNeverStop s hi
    have hengine : engineStep s = .next t := by
      rw [← engineTurn_of_busy hb, ← step_of_sched_nil_busy hs hb, hstep]
    obtain ⟨hhost, hsched⟩ := engineStep_environment hengine
    obtain ⟨hrem, -⟩ := engineStep_progress (hi.runShape hb) hb hengine
    rw [core_run_succ (n + 1) hstep]
    exact ih (hi.engineStep hb hengine) (hsched.trans hs) (hhost.trans hh) (by omega)

/-- Settles O51: the wait is performed one step after the run's last, and a run has at most 48 steps left. -/
theorem waitEnds : Obligations.WaitEnds := by
  intro s rest hi hs hh
  obtain ⟨t, hrun, hhost, hb⟩ := wait_performed_after_run hi hs hh rfl
  have hle := hi.remainingSteps_le
  exact ⟨remainingSteps s + 1, t, by omega, hrun, hhost, hb⟩

end Sys2Proof.Machine
end
